-- ==== Sys2Proof/Word.lean ====
section
/-! DEFINITION. The widths of the block's values (00_scope.md R6, R8, R9): every value is unsigned, bit 0 is the least
significant bit, and arithmetic is on natural numbers, narrowed by an explicit `BitVec.ofNat` (R10). -/

namespace Sys2Proof

/-- FSM_STATE: the 4-bit code held in `st` (30_encoding.md R80, R81). -/
abbrev StCode := BitVec 4

/-- LADDER_CODE: an 8-bit ladder level, 0..255 (R6, R84). -/
abbrev Ladder := BitVec 8

/-- DAC_WORD: the 16-bit output word (R6, R82). -/
abbrev DacWord := BitVec 16

/-- The DAC Driver's level input, DRIVER_IN_W = 16 bits (R6). -/
abbrev Level := BitVec 16

/-- The index of a frame bit, 0..15 (R8, R27). -/
abbrev BitIndex := BitVec 4

end Sys2Proof
end

