-- ==== Sys2Proof/Config.lean ====
section
/-! DEFINITION. What is fixed when the block is built (00_scope.md R6, R7), the values of the input ports at an instant
(10_state.md R22), and the model's free values. -/

namespace Sys2Proof

/-- The timing and build parameters of 00_scope.md R7, in cycles of `clk` where they are durations. Which values are
legal is `Params.legal` (WellFormed.lean). -/
structure Params where
  /-- T_DWELL: cycles `sample_gate` stays asserted. -/
  tDwell : Nat
  /-- T_LADDER: cycles from a ladder write to the comparator test, the test cycle not counted. -/
  tLadder : Nat
  /-- T_DAC_SETTLE: cycles from the last SCLK falling edge to the CS_n rising edge. -/
  tDacSettle : Nat
  /-- SCLK_HALF: cycles of one half period of SCLK. -/
  sclkHalf : Nat
  /-- N_SYNC: flip-flops of the comparator synchroniser. -/
  nSync : Nat
  /-- PREV_INIT: the reset value of `prev`. -/
  prevInit : Ladder
deriving DecidableEq, Repr

/-- The input ports at one instant (10_state.md R22): at a rising edge of `clk`, or between two edges, where only `rst_n`
acts (log 5). `compIn` is the value CAPTURED at an edge: where `comp_in` changes too close to it, that is either value
(42_ramp_converter.md R153). -/
structure Inputs where
  /-- `clk`: whether it rises at this instant. -/
  clkRises : Bool
  /-- `rst_n`, active low. -/
  rstN : Bool
  /-- `init_done`, active high. -/
  initDone : Bool
  /-- `cal_valid`, active high. -/
  calValid : Bool
  /-- `comp_in`, active high. -/
  compIn : Bool
deriving DecidableEq, Repr, Inhabited

namespace Config

/-- SCALE of R6, R171. The literal is the source's, "unaudited" (D24, I7; log 4). -/
def scale : Nat := 5

/-- OFFSET of R6, R171 (D24, I7; log 4). -/
def offset : Nat := 30

/-- CMD_WRITE of R6, the command nibble of every DAC word (R82; D24, I7; log 4). -/
def cmdWrite : BitVec 4 := 0x1#4

/-- FREE VALUE (log 1): the input ports at the instant of the given number, where `State.inputs` lists none. -/
opaque freeInput : Nat → Inputs

/-- FREE VALUE (log 2): T_DWELL is one more than this. -/
opaque dwellBeyondOne : Nat
/-- FREE VALUE (log 2): T_LADDER is this much more than max(1, N_SYNC). -/
opaque ladderBeyondLeast : Nat
/-- FREE VALUE (log 2): T_DAC_SETTLE is one more than this. -/
opaque dacSettleBeyondOne : Nat
/-- FREE VALUE (log 2): SCLK_HALF is one more than this. -/
opaque sclkHalfBeyondOne : Nat
/-- FREE VALUE (log 2): N_SYNC. -/
opaque nSync : Nat
/-- FREE VALUE (log 3): PREV_INIT. -/
opaque prevInit : Ladder

/-- The parameters of the block that `State.reset` is the reset state of: uninterpreted, and legal by their form
(R7: T_LADDER is at least 1 and at least N_SYNC, the other durations at least 1). -/
def params : Params where
  tDwell := dwellBeyondOne + 1
  tLadder := max 1 nSync + ladderBeyondLeast
  tDacSettle := dacSettleBeyondOne + 1
  sclkHalf := sclkHalfBeyondOne + 1
  nSync := nSync
  prevInit := prevInit

end Config
end Sys2Proof
end

