-- ==== Sys2Proof/Syntax.lean ====
section
/-! DEFINITION. The instructions of the block: one constructor per row of spec/opcode_table.json. An instruction is one
FSM state with its transition rule (00_scope.md R13); the row DAC_WRITE is the DAC word (30_encoding.md R82). -/

namespace Sys2Proof

/-- The rows of the opcode table, in the table's order. -/
inductive Instr where
  /-- INIT, code 0x0 (R100). -/
  | init
  /-- SAMPLE, code 0x1 (R120). -/
  | sample
  /-- RAMP_SETTLE, code 0x2 (R142). -/
  | rampSettle
  /-- RAMP_COMPARE, code 0x3 (R143). -/
  | rampCompare
  /-- DAC_CS, code 0x4 (R190). -/
  | dacCs
  /-- DAC_SHIFT_HI, code 0x5 (R191). -/
  | dacShiftHi
  /-- DAC_SHIFT_LO, code 0x6 (R192). -/
  | dacShiftLo
  /-- DAC_SETTLE, code 0x7 (R194). -/
  | dacSettle
  /-- DAC_DONE, code 0x8 (R196). -/
  | dacDone
  /-- RAMP_REST, code 0x9 (R147). -/
  | rampRest
  /-- TRAP, code 0xF (R220). -/
  | trap
  /-- ILLEGAL_A_B, codes 101x (R222); `x` is bit 0 of the code. -/
  | illegalAB (x : BitVec 1)
  /-- ILLEGAL_C_D, codes 110x (R222); `x` is bit 0 of the code. -/
  | illegalCD (x : BitVec 1)
  /-- ILLEGAL_E, code 0xE (R222). -/
  | illegalE
  /-- DAC_WRITE, the DAC word; `level16` is the DAC Driver's 16-bit level input, of which the word holds the low 12
  bits (R82, R172). -/
  | dacWrite (level16 : Level)
deriving DecidableEq, Repr

end Sys2Proof
end

