-- ==== Sys2Proof/WellFormed.lean ====
section
/-! DEFINITION. Which instructions have an encoding of their own, and which parameter sets are legal. -/

namespace Sys2Proof

/-- A DAC word has 12 bits for the level (30_encoding.md R82), so a level of 4096 or more has no word of its own; the
operands of the other rows fit their fields by their types. -/
def Instr.wellFormed : Instr → Bool
  | .init => true
  | .sample => true
  | .rampSettle => true
  | .rampCompare => true
  | .dacCs => true
  | .dacShiftHi => true
  | .dacShiftLo => true
  | .dacSettle => true
  | .dacDone => true
  | .rampRest => true
  | .trap => true
  | .illegalAB _ => true
  | .illegalCD _ => true
  | .illegalE => true
  | .dacWrite level16 => decide (level16.toNat < 4096)

/-- The legal values of 00_scope.md R7; T_LADDER at least N_SYNC is also 70_reset_and_hazards.md R262. -/
abbrev Params.legal (p : Params) : Prop :=
  1 ≤ p.tDwell ∧ 1 ≤ p.tLadder ∧ p.nSync ≤ p.tLadder ∧ 1 ≤ p.tDacSettle ∧ 1 ≤ p.sclkHalf

end Sys2Proof
end

