-- ==== Sys2Proof/Decode.lean ====
section
/-! DEFINITION. Decoding and encoding (30_encoding.md R80-R88). A word of the block has one of two fixed-width formats;
decoding is total, and what is no instruction is rejected by name. -/

namespace Sys2Proof

/-! The state codes of 30_encoding.md R81. -/

/-- INIT. -/
abbrev stInit : StCode := 0x0#4
/-- SAMPLE. -/
abbrev stSample : StCode := 0x1#4
/-- RAMP_SETTLE. -/
abbrev stRampSettle : StCode := 0x2#4
/-- RAMP_COMPARE. -/
abbrev stRampCompare : StCode := 0x3#4
/-- DAC_CS. -/
abbrev stDacCs : StCode := 0x4#4
/-- DAC_SHIFT_HI. -/
abbrev stDacShiftHi : StCode := 0x5#4
/-- DAC_SHIFT_LO. -/
abbrev stDacShiftLo : StCode := 0x6#4
/-- DAC_SETTLE. -/
abbrev stDacSettle : StCode := 0x7#4
/-- DAC_DONE. -/
abbrev stDacDone : StCode := 0x8#4
/-- RAMP_REST. -/
abbrev stRampRest : StCode := 0x9#4
/-- TRAP. -/
abbrev stTrap : StCode := 0xF#4

/-- A word in one of the two decoded formats of R80. -/
inductive CodeWord where
  /-- FSM_STATE, 4 bits. -/
  | fsm (c : StCode)
  /-- DAC_WORD, 16 bits. -/
  | dac (w : DacWord)
deriving DecidableEq, Repr

/-- Why a word is no instruction. -/
inductive Reject where
  /-- A DAC word whose CMD nibble is not 0x1: "never produced by the block" (R87), meaning not in the source (N6). -/
  | dacCommand (cmd : BitVec 4)
  /-- A byte that holds a state code has its upper four bits 0 (log 15). -/
  | fsmPadding (upper : BitVec 4)
  /-- There is no format of this many bytes (R88). -/
  | length (bytes : Nat)
deriving DecidableEq, Repr

/-- The decode of R86: total on the 4-bit codes; 101x, 110x and 1110 are the illegal codes (R87). -/
def decodeFsm (c : StCode) : Instr :=
  if c = stInit then .init
  else if c = stSample then .sample
  else if c = stRampSettle then .rampSettle
  else if c = stRampCompare then .rampCompare
  else if c = stDacCs then .dacCs
  else if c = stDacShiftHi then .dacShiftHi
  else if c = stDacShiftLo then .dacShiftLo
  else if c = stDacSettle then .dacSettle
  else if c = stDacDone then .dacDone
  else if c = stRampRest then .rampRest
  else if c.extractLsb' 1 3 = 0b101#3 then .illegalAB (c.extractLsb' 0 1)
  else if c.extractLsb' 1 3 = 0b110#3 then .illegalCD (c.extractLsb' 0 1)
  else if c = 0xE#4 then .illegalE
  else .trap

/-- The DAC word's two fields, CMD [15:12] and LEVEL [11:0] (R82). -/
def decodeDac (w : DacWord) : Except Reject Instr :=
  if w.extractLsb' 12 4 = Config.cmdWrite then .ok (.dacWrite ((w.extractLsb' 0 12).zeroExtend 16))
  else .error (.dacCommand (w.extractLsb' 12 4))

/-- Decoding of a word in its format. -/
def decode : CodeWord → Except Reject Instr
  | .fsm c => .ok (decodeFsm c)
  | .dac w => decodeDac w

/-- Decoding of bytes: one byte holds a state code in its low half, two bytes a DAC word, high byte first (R61). -/
def decodeBytes : List (BitVec 8) → Except Reject Instr
  | [b] =>
    if b.extractLsb' 4 4 = 0#4 then decode (.fsm (b.extractLsb' 0 4)) else .error (.fsmPadding (b.extractLsb' 4 4))
  | [hi, lo] => decode (.dac (hi ++ lo))
  | bs => .error (.length bs.length)

/-- The word of an instruction, from the tables of R81 and R82; a DAC word is {4'b0001, level16[11:0]}. -/
def encode : Instr → CodeWord
  | .init => .fsm 0b0000#4
  | .sample => .fsm 0b0001#4
  | .rampSettle => .fsm 0b0010#4
  | .rampCompare => .fsm 0b0011#4
  | .dacCs => .fsm 0b0100#4
  | .dacShiftHi => .fsm 0b0101#4
  | .dacShiftLo => .fsm 0b0110#4
  | .dacSettle => .fsm 0b0111#4
  | .dacDone => .fsm 0b1000#4
  | .rampRest => .fsm 0b1001#4
  | .trap => .fsm 0b1111#4
  | .illegalAB x => .fsm (0b101#3 ++ x)
  | .illegalCD x => .fsm (0b110#3 ++ x)
  | .illegalE => .fsm 0b1110#4
  | .dacWrite level16 => .dac (0b0001#4 ++ level16.extractLsb' 0 12)

/-- The bytes of a word: the inverse of `decodeBytes` on its two formats. -/
def CodeWord.bytes : CodeWord → List (BitVec 8)
  | .fsm c => [c.zeroExtend 8]
  | .dac w => [w.extractLsb' 8 8, w.extractLsb' 0 8]

/-- The instruction the decoder reads from bits numbered as spec/opcode_table.json numbers them: a row of at most 8 bits
has the format FSM_STATE, a wider one DAC_WORD; a bit beyond the format is refused. -/
def decodeTableWord (nbits w : Nat) : Option Instr :=
  if nbits ≤ 8 then
    if w < 256 then (decodeBytes [BitVec.ofNat 8 w]).toOption else none
  else if w < 65536 then (decodeBytes [BitVec.ofNat 8 (w / 256), BitVec.ofNat 8 w]).toOption
  else none

end Sys2Proof
end

