-- ==== Sys2Proof/Machine/State.lean ====
section
/-! DEFINITION. The block's state: the register set of 10_state.md R31, and four fields of the model's own (the build
parameters, the inputs of the coming instants, the index of the free input, a word placed for the DAC Driver). The block has
no memory (20_memory.md R60). -/

namespace Sys2Proof.Machine

/-- The registers of 10_state.md R31, then the model's own fields. -/
structure State where
  /-- `st[3:0]`, the FSM state register (R23, R32). -/
  st : StCode
  /-- `code[7:0]`, the trial ladder code (R24). -/
  code : Ladder
  /-- `prev[7:0]`, the last matched code (R25). -/
  prev : Ladder
  /-- `cnt`, the delay down-counter (R26); a natural number, as R8 allows (log 14). -/
  cnt : Nat
  /-- `bitcnt[3:0]`, the index of the frame bit being sent (R27). -/
  bitcnt : BitIndex
  /-- `sr[15:0]`, the DAC shift register (R28). -/
  sr : DacWord
  /-- `sync[N_SYNC-1:0]`, the comparator synchroniser, `sync[0]` first (R29). -/
  sync : List Bool
  /-- `gate`, drives `sample_gate` (R30). -/
  gate : Bool
  /-- `ladder[7:0]`, drives `ladder` (R30). -/
  ladder : Ladder
  /-- `cs_n`, drives `dac_cs_n`, active low (R30). -/
  csN : Bool
  /-- `sclk`, drives `dac_sclk` (R30). -/
  sclk : Bool
  /-- `mosi`, drives `dac_mosi` (R30). -/
  mosi : Bool
  /-- THE MODEL'S OWN: the parameters the block is built with (00_scope.md R7); no step writes them (log 2). -/
  params : Params
  /-- THE MODEL'S OWN: the input ports at the coming instants, the next first (log 1, log 5). -/
  inputs : List Inputs
  /-- THE MODEL'S OWN: the number of the next instant, the argument of the free input (log 1). -/
  drawIndex : Nat
  /-- THE MODEL'S OWN: a DAC word placed for the DAC Driver, run by the next edge in place of the state rule
  (30_encoding.md R90, DRIVE_DAC). No state rule writes it (log 6). -/
  dacCall : Option DacWord
deriving DecidableEq, Repr

/-- The spec has no behaviour that stops the machine: its fatal trap is the state TRAP (60_exceptions.md R220), and an
illegal code enters it (R222), both as next states (log 8). So no constructor. -/
inductive Fault
deriving DecidableEq, Repr

/-- Why a step has no meaning. -/
inductive Refusal where
  /-- An instruction of the table without a meaning. Raised by no arm of `exec` in this model. Safe. -/
  | notModelled (mnemonic : String)
  /-- The word placed for the DAC Driver decodes to no instruction: its CMD nibble is other than 0x1, which the block
  never produces and whose effect is not in the source (30_encoding.md R87, 91_not_in_source.md N6). Raised by `step` at
  its fetch. Safe. -/
  | dacWordRejected (why : Reject)
deriving DecidableEq, Repr

/-- The reset values of 10_state.md R37 for a block built with `p`; the environment's part is given beside it. -/
def State.resetWith (p : Params) (inputs : List Inputs) (drawIndex : Nat) : State where
  st := stInit
  code := 0#8
  prev := p.prevInit
  cnt := 0
  bitcnt := 0#4
  sr := 0x0000#16
  sync := List.replicate p.nSync false
  gate := false
  ladder := 0x00#8
  csN := true
  sclk := false
  mosi := false
  params := p
  inputs := inputs
  drawIndex := drawIndex
  dacCall := none

/-- The machine right after reset: a block of uninterpreted legal parameters, no input listed (log 1, log 2). -/
def State.reset : State := State.resetWith Config.params [] 0

end Sys2Proof.Machine
end

