-- ==== Sys2Proof/Machine/Operands.lean ====
section
/-! DEFINITION. The operands of the state rules: the input ports at an instant, the synchronised comparator, and the
smoothing and word-packing datapath (43_smoothing.md R170-R175). -/

namespace Sys2Proof.Machine

/-- The input ports at the `k`-th coming instant, 0 the next: as listed, and free beyond the list (R39, D25; log 1). -/
def State.pinsAt (s : State) (k : Nat) : Inputs := s.inputs.getD k (Config.freeInput (s.drawIndex + k))

/-- The input ports at the coming instant. -/
def State.pins (s : State) : Inputs := s.pinsAt 0

/-- `comp_s` (42_ramp_converter.md R140): the last flip-flop of the chain, and `comp_in` at this edge when the chain is
empty. -/
def State.compS (s : State) : Bool := s.sync.getLastD s.pins.compIn

/-- R170: `(a + b) >> 1`, the sum at 9 bits. -/
def avg (a b : Ladder) : Ladder := BitVec.ofNat 8 ((a.toNat + b.toNat) >>> 1)

/-- R171: `zext_16(s * SCALE + OFFSET)`. -/
def level (s : Ladder) : Level := BitVec.ofNat 16 (s.toNat * Config.scale + Config.offset)

/-- R172, R174: the command nibble over the low 12 bits of the level; a wider level wraps. -/
def word (level16 : Level) : DacWord := (Config.cmdWrite.zeroExtend 16 <<< 12) ||| (level16 &&& 0x0FFF#16)

/-- R173: the DAC level of a match, from `code` and the old `prev`. -/
def matchLevel (s : State) : Level := level (avg s.code s.prev)

end Sys2Proof.Machine
end

