-- ==== Sys2Proof/Machine/Flags.lean ====
section
/-! DEFINITION. The two conditions of 10_state.md R33. The block stores no flag. -/

namespace Sys2Proof.Machine

/-- `match`: the level test of 42_ramp_converter.md R141. -/
def matchFlag (s : State) : Bool := s.compS

/-- `last`: the code of the last step of a search (90_conflicts.md C5). -/
def lastFlag (s : State) : Bool := s.code == 255#8

end Sys2Proof.Machine
end

