-- ==== Sys2Proof/Machine/Ops.lean ====
section
/-! DEFINITION. The operations the state rules share. Each is one set of register assignments of one edge: right-hand
sides read the state before the edge, and a register not named keeps its value (00_scope.md R11). -/

namespace Sys2Proof.Machine

/-! ## The trap and the reset -/

/-- `raise Trap(cause)`: `st <- TRAP` and nothing else (00_scope.md R12, 60_exceptions.md R220, R225). No cause is
recorded (R221). There is no return from it but `holdReset`. -/
def raiseTrap (s : State) : State := { s with st := stTrap }

/-- The idle outputs that an illegal code forces (60_exceptions.md R222). -/
def forceIdle (s : State) : State :=
  { s with gate := false, csN := true, sclk := false, mosi := false, code := 0#8, ladder := 0#8 }

/-- The illegal-state rule of R222. -/
def illegalState (s : State) : State := raiseTrap (forceIdle s)

/-- `rst_n` = 0: every register at its reset value at once, whether `clk` rises or not (10_state.md R21, R37,
70_reset_and_hazards.md R250). The instant uses up one input. -/
def holdReset (s : State) : State := State.resetWith s.params s.inputs.tail (s.drawIndex + 1)

/-! ## The delay counter and the stages -/

/-- One edge of a delay that is not over (10_state.md R26). -/
def countDown (s : State) : State := { s with cnt := s.cnt - 1 }

/-- The edge that enters SAMPLE: the gate closes for T_DWELL cycles (R100, R147). -/
def enterSample (s : State) : State := { s with gate := true, cnt := s.params.tDwell - 1, st := stSample }

/-- The edge that begins a step of the search: the ladder is written, the settle delay begins (R120, R145). -/
def startStep (c : Ladder) (s : State) : State :=
  { s with ladder := c, cnt := s.params.tLadder - 1, st := stRampSettle }

/-- The edge that ends a search: code and ladder back to 0 (R146, R196). -/
def restLadder (s : State) : State := { s with code := 0#8, ladder := 0#8, st := stRampRest }

/-- The edge that asserts chip-select and loads the word (R144, R190). -/
def startFrame (w : DacWord) (s : State) : State :=
  { s with sr := w, mosi := w.getLsbD 15, sclk := false, csN := false, bitcnt := 0#4,
           cnt := s.params.sclkHalf - 1, st := stDacCs }

/-- A rising edge of SCLK (R190, R191). -/
def raiseSclk (s : State) : State := { s with sclk := true, cnt := s.params.sclkHalf - 1 }

/-- A falling edge of SCLK with bits left: the next frame bit goes out (R191). -/
def nextBit (s : State) : State :=
  { s with sclk := false, sr := s.sr <<< 1, mosi := s.sr.getLsbD 14, bitcnt := s.bitcnt + 1#4,
           cnt := s.params.sclkHalf - 1,
           st := if s.bitcnt.toNat + 1 ≤ 7 then stDacShiftHi else stDacShiftLo }

/-- The last falling edge of SCLK: the settling delay begins (R191). -/
def endFrame (s : State) : State :=
  { s with sclk := false, mosi := false, cnt := s.params.tDacSettle - 1, st := stDacSettle }

/-- The pseudocode that R191 and R192 share. -/
def shiftFrame (s : State) : State :=
  if s.cnt ≠ 0 then countDown s
  else if s.sclk = false then raiseSclk s
  else if s.bitcnt ≠ 15#4 then nextBit s
  else endFrame s

/-! ## The fetch, and what an instant does around the state rule -/

/-- What the coming edge executes: the rule of the state in `st` (30_encoding.md R86); a word placed for the DAC Driver
comes before it (log 6). -/
def fetch (s : State) : Except Reject Instr :=
  match s.dacCall with
  | none => decode (.fsm s.st)
  | some w => decode (.dac w)

/-- The part of every edge beside the state rule: the synchroniser shifts (R101, R140); the edge's input and the placed
word are used up. -/
def finishEdge (s : State) : State :=
  { s with sync := (s.pins.compIn :: s.sync).dropLast, inputs := s.inputs.tail, drawIndex := s.drawIndex + 1,
           dacCall := none }

/-- An instant between two edges with `rst_n` = 1: no register changes (10_state.md R20); the instant's input is used up. -/
def betweenEdges (s : State) : State := { s with inputs := s.inputs.tail, drawIndex := s.drawIndex + 1 }

/-- The next instant made an edge with `rst_n` released, which a fetch needs (log 11). -/
def releaseReset (s : State) : State := { s with inputs := { s.pins with clkRises := true, rstN := true } :: s.inputs.tail }

/-- Place a word of the opcode table where the next edge fetches: a state code in `st`, a DAC word with the DAC Driver
(log 6, log 11). -/
def placeWord (s : State) (nbits w : Nat) : State :=
  if nbits ≤ 8 then { releaseReset s with st := BitVec.ofNat 4 w, dacCall := none }
  else { releaseReset s with dacCall := some (BitVec.ofNat 16 w) }

end Sys2Proof.Machine
end

