-- ==== Sys2Proof/Machine/Control.lean ====
section
/-! DEFINITION. The control loop's start (40_control_loop.md): INIT. -/

namespace Sys2Proof.Machine

/-- INIT (R100): wait for `init_done`; on the edge that first sees it, `cal_valid` decides between SAMPLE and the trap
CAL_INVALID (60_exceptions.md R221). -/
def execInit (s : State) : Host.Outcome State Fault Refusal :=
  .next (if s.pins.initDone then (if s.pins.calValid then enterSample s else raiseTrap s) else { s with st := stInit })

end Sys2Proof.Machine
end

