-- ==== Sys2Proof/Machine/Dac.lean ====
section
/-! DEFINITION. The DAC Driver (44_dac_driver.md): DAC_CS, DAC_SHIFT_HI, DAC_SHIFT_LO, DAC_SETTLE, DAC_DONE, and the DAC
word itself (30_encoding.md R82, 43_smoothing.md R172). -/

namespace Sys2Proof.Machine

/-- DAC_CS (R190): CS setup and the low half of frame bit 0, then the first rising edge of SCLK. -/
def execDacCs (s : State) : Host.Outcome State Fault Refusal :=
  .next (if s.cnt ≠ 0 then countDown s else { raiseSclk s with st := stDacShiftHi })

/-- DAC_SHIFT_HI (R191): frame bits 0..7. -/
def execDacShiftHi (s : State) : Host.Outcome State Fault Refusal := .next (shiftFrame s)

/-- DAC_SHIFT_LO (R192): frame bits 8..15, by the same pseudocode. -/
def execDacShiftLo (s : State) : Host.Outcome State Fault Refusal := .next (shiftFrame s)

/-- DAC_SETTLE (R194): chip-select stays asserted for the settling delay, then rises. -/
def execDacSettle (s : State) : Host.Outcome State Fault Refusal :=
  .next (if s.cnt ≠ 0 then countDown s else { s with csN := true, st := stDacDone })

/-- DAC_DONE (R196): the ladder goes back to rest. -/
def execDacDone (s : State) : Host.Outcome State Fault Refusal := .next (restLadder s)

/-- DAC_WRITE: the DAC Driver's part of a match edge (R144) for a given level: pack the word (R172), load it and assert
chip-select. The states above then send it: DRIVE_DAC of 30_encoding.md R90 (log 6). -/
def execDacWrite (level16 : Level) (s : State) : Host.Outcome State Fault Refusal :=
  .next (startFrame (word level16) s)

end Sys2Proof.Machine
end

