-- ==== Sys2Proof/Machine/Ramp.lean ====
section
/-! DEFINITION. The Ramp Converter (42_ramp_converter.md): RAMP_SETTLE, RAMP_COMPARE, RAMP_REST. -/

namespace Sys2Proof.Machine

/-- RAMP_SETTLE (R142): wait out the settle delay. -/
def execRampSettle (s : State) : Host.Outcome State Fault Refusal :=
  .next (if s.cnt ≠ 0 then countDown s else { s with st := stRampCompare })

/-- The match branch (R144): the word is computed from the code and the OLD `prev`, the match is recorded, the frame
starts; code and ladder stay. -/
def matchBranch (s : State) : State := { startFrame (word (matchLevel s)) s with prev := s.code }

/-- The next-step branch (R145). -/
def nextStep (s : State) : State := { startStep (s.code + 1#8) s with code := s.code + 1#8 }

/-- RAMP_COMPARE (R143): a match comes before the test for the last code; the last code without a match ends the search
(R146). -/
def execRampCompare (s : State) : Host.Outcome State Fault Refusal :=
  .next (if matchFlag s then matchBranch s else if lastFlag s then restLadder s else nextStep s)

/-- RAMP_REST (R147): one cycle, then the next sample. -/
def execRampRest (s : State) : Host.Outcome State Fault Refusal := .next (enterSample s)

end Sys2Proof.Machine
end

