-- ==== Sys2Proof/Machine/Sampler.lean ====
section
/-! DEFINITION. The Sampler (41_sampler.md): SAMPLE. -/

namespace Sys2Proof.Machine

/-- SAMPLE (R120): the gate stays closed while the dwell lasts; the exit edge opens it, writes the ladder with `code` and
begins the first settle (R121). -/
def execSample (s : State) : Host.Outcome State Fault Refusal :=
  .next (if s.cnt ≠ 0 then countDown s else { startStep s.code s with gate := false })

end Sys2Proof.Machine
end

