-- ==== Sys2Proof/Machine/Traps.lean ====
section
/-! DEFINITION. The trap state and the illegal codes (60_exceptions.md): TRAP, ILLEGAL_A_B, ILLEGAL_C_D, ILLEGAL_E. -/

namespace Sys2Proof.Machine

/-- TRAP (R220): `st <- TRAP`, nothing else. -/
def execTrap (s : State) : Host.Outcome State Fault Refusal := .next (raiseTrap s)

/-- Codes 0xA and 0xB (R222); both do the same, so the code's bit 0 is not read. -/
def execIllegalAB (_x : BitVec 1) (s : State) : Host.Outcome State Fault Refusal := .next (illegalState s)

/-- Codes 0xC and 0xD (R222). -/
def execIllegalCD (_x : BitVec 1) (s : State) : Host.Outcome State Fault Refusal := .next (illegalState s)

/-- Code 0xE (R222). -/
def execIllegalE (s : State) : Host.Outcome State Fault Refusal := .next (illegalState s)

end Sys2Proof.Machine
end

