-- ==== Sys2Proof/Machine/Dispatch.lean ====
section
/-! DEFINITION. One arm per instruction. -/

namespace Sys2Proof.Machine

/-- The register assignments of an instruction at one edge. What every edge does beside them is in `step`. -/
def exec (i : Instr) (s : State) : Host.Outcome State Fault Refusal :=
  match i with
  | .init => Sys2Proof.Machine.execInit s
  | .sample => Sys2Proof.Machine.execSample s
  | .rampSettle => Sys2Proof.Machine.execRampSettle s
  | .rampCompare => Sys2Proof.Machine.execRampCompare s
  | .dacCs => Sys2Proof.Machine.execDacCs s
  | .dacShiftHi => Sys2Proof.Machine.execDacShiftHi s
  | .dacShiftLo => Sys2Proof.Machine.execDacShiftLo s
  | .dacSettle => Sys2Proof.Machine.execDacSettle s
  | .dacDone => Sys2Proof.Machine.execDacDone s
  | .rampRest => Sys2Proof.Machine.execRampRest s
  | .trap => Sys2Proof.Machine.execTrap s
  | .illegalAB x => Sys2Proof.Machine.execIllegalAB x s
  | .illegalCD x => Sys2Proof.Machine.execIllegalCD x s
  | .illegalE => Sys2Proof.Machine.execIllegalE s
  | .dacWrite level16 => Sys2Proof.Machine.execDacWrite level16 s

end Sys2Proof.Machine
end

