-- ==== Sys2Proof/Machine/Step.lean ====
section
/-! DEFINITION. One instant: a rising edge of `clk` (40_control_loop.md R101), or a moment between two; and the placing of an instruction where it is fetched. -/

namespace Sys2Proof.Machine

/-- One instant: `rst_n` = 0 overrides everything and does not wait for an edge (60_exceptions.md R224,
70_reset_and_hazards.md R250). At a rising edge of `clk` the fetched instruction and the rest of the edge act together
(R101); the rest writes only fields that no instruction writes, so it is applied after it. Between edges nothing changes
(10_state.md R20). -/
def step (s : State) : Host.Outcome State Fault Refusal :=
  if s.pins.rstN = false then .next (holdReset s)
  else if s.pins.clkRises = false then .next (betweenEdges s)
  else
    match fetch s with
    | .ok i =>
      match exec i s with
      | .next t => .next (finishEdge t)
      | .fault f => .fault f
      | .refused r => .refused r
    | .error why => .refused (.dacWordRejected why)

/-- The table's word `w` of a row of `nbits` bits, placed where the next edge fetches (`placeWord`). -/
def State.withFetchWord (s : State) (nbits w : Nat) : State := placeWord s nbits w

end Sys2Proof.Machine
end

