-- ==== Sys2Proof/Safety.lean ====
section
/-! DEFINITION. The words claims are stated in: runs, the ports, the spec's invariants (10_state.md R38), the premises on
the environment (42_ramp_converter.md R148, 70_reset_and_hazards.md R260-R265), and an observer of the DAC wires
(44_dac_driver.md R197). Nothing here is part of the machine. -/

namespace Sys2Proof.Machine

/-! ## Runs -/

/-- The state after `n` instants, if all of them answer a next state. -/
def after : Nat → State → Option State
  | 0, s => some s
  | n + 1, s =>
    match step s with
    | .next t => after n t
    | .fault _ => none
    | .refused _ => none

/-- The coming instant is a rising edge of `clk` with `rst_n` = 1: one on which the block executes (40_control_loop.md
R101). -/
abbrev AtEdge (s : State) : Prop := s.pins.clkRises = true ∧ s.pins.rstN = true

/-- The next `n` instants are edges with `rst_n` = 1: no reset between or at them, so that counting instants counts cycles. -/
abbrev RunsFor (n : Nat) (s : State) : Prop := ∀ k < n, (s.pinsAt k).clkRises = true ∧ (s.pinsAt k).rstN = true

/-! ## The ports -/

/-- The output ports (10_state.md R22), each driven by its register (R30). -/
structure Ports where
  sampleGate : Bool
  ladder : Ladder
  dacCsN : Bool
  dacSclk : Bool
  dacMosi : Bool
deriving DecidableEq, Repr

def State.ports (s : State) : Ports where
  sampleGate := s.gate
  ladder := s.ladder
  dacCsN := s.csN
  dacSclk := s.sclk
  dacMosi := s.mosi

/-- The idle outputs of 70_reset_and_hazards.md R250. -/
def Ports.idle : Ports := { sampleGate := false, ladder := 0x00#8, dacCsN := true, dacSclk := false, dacMosi := false }

/-- The twelve registers at the values of 10_state.md R37, in its order, for a block built with `p`. -/
structure AtResetValues (p : Params) (s : State) : Prop where
  st : s.st = 0x0#4
  code : s.code = 0#8
  prev : s.prev = p.prevInit
  cnt : s.cnt = 0
  bitcnt : s.bitcnt = 0#4
  sr : s.sr = 0x0000#16
  sync : s.sync = List.replicate p.nSync false
  gate : s.gate = false
  ladder : s.ladder = 0x00#8
  csN : s.csN = true
  sclk : s.sclk = false
  mosi : s.mosi = false

/-! ## The invariants -/

/-- The states of a frame's CS_n-low window (R38.2). -/
abbrev inFrame (c : StCode) : Prop := c = stDacCs ∨ c = stDacShiftHi ∨ c = stDacShiftLo ∨ c = stDacSettle

/-- The states in which a frame bit is on the wire (R28). -/
abbrev shifting (c : StCode) : Prop := c = stDacCs ∨ c = stDacShiftHi ∨ c = stDacShiftLo

/-- The codes 0xA..0xE (30_encoding.md R87). -/
abbrev illegalCode (c : StCode) : Prop := 0xA ≤ c.toNat ∧ c.toNat ≤ 0xE

/-- The eight invariants of 10_state.md R38, in its order. -/
structure PortInvariants (s : State) : Prop where
  gate_iff : s.gate = true ↔ s.st = stSample
  csN_iff : s.csN = false ↔ inFrame s.st
  sclk_only : s.sclk = true → s.st = stDacShiftHi ∨ s.st = stDacShiftLo
  ladder_eq : s.ladder = s.code
  at_rest : s.st = stInit ∨ s.st = stSample ∨ s.st = stRampRest ∨ s.st = stTrap → s.code = 0#8 ∧ s.ladder = 0#8
  exclusive : ¬(s.gate = true ∧ s.csN = false)
  bitcnt_hi : s.st = stDacShiftHi → s.bitcnt.toNat ≤ 7
  bitcnt_lo : s.st = stDacShiftLo → 8 ≤ s.bitcnt.toNat
  bitcnt_cs : s.st = stDacCs → s.bitcnt = 0#4
  mosi_idle : s.csN = true → s.mosi = false

/-- The most that `cnt` holds in a state: one less than the state's delay (10_state.md R26), 0 where it has none. -/
def State.cntBound (s : State) : Nat :=
  if s.st = stSample then s.params.tDwell - 1
  else if s.st = stRampSettle then s.params.tLadder - 1
  else if shifting s.st then s.params.sclkHalf - 1
  else if s.st = stDacSettle then s.params.tDacSettle - 1
  else 0

/-- The states of the block that claims are about: legal parameters, a full synchroniser, no placed word, a legal code
(R23), the invariants of R38, and what they need beside them to be kept by a step. -/
structure Inv (s : State) : Prop where
  legal : s.params.legal
  chain : s.sync.length = s.params.nSync
  noCall : s.dacCall = none
  legalCode : ¬illegalCode s.st
  ports : PortInvariants s
  mosi_head : shifting s.st → s.mosi = s.sr.getLsbD 15
  mosi_settle : s.st = stDacSettle → s.mosi = false
  cnt_le : s.cnt ≤ s.cntBound

/-! ## Premises on the environment -/

/-- THRESHOLD(T) of R148 along the next `n` instants: each comparator test of code k reads 1 exactly if k ≥ T. -/
abbrev Threshold (T : Nat) (s : State) (n : Nat) : Prop :=
  ∀ k < n, ∀ u ∈ after k s, u.st = stRampCompare → u.compS = decide (T ≤ u.code.toNat)

/-- ENV(T) of 95_test_vectors.md section 0 along the next `n` instants: `comp_in` at each is 1 exactly if the ladder port
just before it is at least T. -/
abbrev IdealComparator (T : Nat) (s : State) (n : Nat) : Prop :=
  ∀ k < n, ∀ u ∈ after k s, u.pins.compIn = decide (T ≤ u.ladder.toNat)

/-- What the analog parts and the receiver need, in a unit of time of the reader's choice. The spec gives no numbers
(91_not_in_source.md N3, N4). -/
structure AnalogNeeds where
  /-- The hold capacitor's charge time (R261). -/
  charge : Nat
  /-- Ladder settling, comparator response and flip-flop setup together (R262). -/
  ladderSettle : Nat
  /-- How long the held sample stays valid (R263). -/
  hold : Nat
  /-- From the last clock to CS_n rising (R264). -/
  dacSettle : Nat
  /-- The longest of SCLK high time, low time, data setup, data hold and CS_n setup (R265). -/
  sclkHalf : Nat
deriving DecidableEq, Repr

/-- The integrator's duties of R261-R265 for a clock of period `tClk`: premises for claims about analog results. -/
abbrev HazardsMet (p : Params) (tClk : Nat) (needs : AnalogNeeds) : Prop :=
  needs.charge ≤ p.tDwell * tClk ∧
  p.nSync ≤ p.tLadder ∧ needs.ladderSettle ≤ (p.tLadder + 1 - p.nSync) * tClk ∧
  256 * (p.tLadder + 1) * tClk ≤ needs.hold ∧
  needs.dacSettle ≤ p.tDacSettle * tClk ∧
  needs.sclkHalf ≤ p.sclkHalf * tClk

/-! ## The receiver's view of the wires -/

/-- What the three DAC wires have shown: the bits of the open window, and the frames committed, oldest first. -/
structure Receiver where
  bits : List Bool
  frames : List (List Bool)
deriving DecidableEq, Repr

/-- One instant seen from the wires (R197, D30): CS_n falling opens a window, a rising SCLK inside it gives a bit, CS_n
rising commits the frame. -/
def Receiver.see (r : Receiver) (before now : Ports) : Receiver :=
  if before.dacCsN && !now.dacCsN then { r with bits := [] }
  else if !before.dacCsN && now.dacCsN then { bits := [], frames := r.frames ++ [r.bits] }
  else if !now.dacCsN && (!before.dacSclk && now.dacSclk) then { r with bits := r.bits ++ [now.dacMosi] }
  else r

/-- A run of `n` instants with a receiver on the wires. -/
def watch : Nat → State → Receiver → Option (State × Receiver)
  | 0, s, r => some (s, r)
  | n + 1, s, r =>
    match step s with
    | .next t => watch n t (r.see s.ports t.ports)
    | .fault _ => none
    | .refused _ => none

/-- The frame of a word on the wire: frame bit i is word bit 15 - i (30_encoding.md R85). -/
def frameOf (w : DacWord) : List Bool := (List.range 16).map fun i => w.getLsbD (15 - i)

/-- The coming edge begins a frame of the word `w`: the match branch of RAMP_COMPARE (42_ramp_converter.md R144), or a word
placed for the DAC Driver (30_encoding.md R90, DRIVE_DAC; log 6). -/
def BeginsFrame (s : State) (w : DacWord) : Prop :=
  (s.dacCall = none ∧ s.st = 0x3#4 ∧ s.compS = true ∧ w = word (matchLevel s)) ∨
  (s.dacCall = some w ∧ w.extractLsb' 12 4 = 0x1#4)

end Sys2Proof.Machine
end

