-- ==== Sys2Proof/Certificates/Slice0/Obligations.lean ====
section
/-! DEFINITION. The statements for the provers. Each docstring names the rule of spec/ it formalises. -/

open Sys2Proof Sys2Proof.Machine

/-! ## Encoding -/

/-- The words of opcode_table.json and of 30_encoding.md R81, R82, written out bit by bit, decode to their rows. -/
def Obligations.TableWordsDecode : Prop :=
  decodeTableWord 8 0b0000 = some .init ∧ decodeTableWord 8 0b0001 = some .sample ∧
  decodeTableWord 8 0b0011 = some .rampCompare ∧ decodeTableWord 8 0b0101 = some .dacShiftHi ∧
  decodeTableWord 8 0b1001 = some .rampRest ∧ decodeTableWord 8 0b1111 = some .trap ∧
  decodeTableWord 8 0b1011 = some (.illegalAB 1#1) ∧ decodeTableWord 8 0b1100 = some (.illegalCD 0#1) ∧
  decodeTableWord 8 0b1110 = some .illegalE ∧
  decodeTableWord 16 0b0001000110010101 = some (.dacWrite 405#16)

/-- Decoding inverts encoding, in the word's format and in bytes, for every well-formed instruction. -/
def Obligations.DecodeInvertsEncode : Prop :=
  ∀ i : Instr, i.wellFormed = true →
    decode (encode i) = .ok i ∧ decodeBytes (encode i).bytes = .ok i

/-- A word that decodes has no other meaning: its instruction is well-formed and encodes to it. -/
def Obligations.EncodeInvertsDecode : Prop :=
  ∀ (w : CodeWord) (i : Instr), decode w = .ok i → i.wellFormed = true ∧ encode i = w

/-- R86: each edge executes the rule that all four bits of `st` choose, as in the table of R81; the decode is total, one
rule for each code; 0xA..0xE choose the illegal-state rule. -/
def Obligations.StateDecodeChoosesTheRule : Prop :=
  (∀ s : State, AtEdge s → s.dacCall = none →
    ∃ u, exec (decodeFsm s.st) s = .next u ∧ step s = .next (finishEdge u)) ∧
  (∀ c : StCode, ∃! i : Instr, encode i = .fsm c) ∧
  (∀ c : StCode, encode (decodeFsm c) = .fsm c) ∧
  decodeFsm 0x0#4 = .init ∧ decodeFsm 0x1#4 = .sample ∧ decodeFsm 0x2#4 = .rampSettle ∧
  decodeFsm 0x3#4 = .rampCompare ∧ decodeFsm 0x4#4 = .dacCs ∧ decodeFsm 0x5#4 = .dacShiftHi ∧
  decodeFsm 0x6#4 = .dacShiftLo ∧ decodeFsm 0x7#4 = .dacSettle ∧ decodeFsm 0x8#4 = .dacDone ∧
  decodeFsm 0x9#4 = .rampRest ∧ decodeFsm 0xF#4 = .trap ∧
  ∀ (c : StCode) (s : State), 0xA ≤ c.toNat → c.toNat ≤ 0xE →
    exec (decodeFsm c) s = .next { s with gate := false, csN := true, sclk := false, mosi := false, code := 0#8, ladder := 0#8, st := 0xF#4 }

/-- R82: word = 0x1000 | (level16 & 0x0FFF) = {4'b0001, level16[11:0]}, with the rule's two examples; the encoder's and the
datapath's word are the same. -/
def Obligations.DacWordHasCommandAndLevel : Prop :=
  (∀ l : Level, word l = 0x1000#16 ||| (l &&& 0x0FFF#16) ∧ word l = 0b0001#4 ++ l.extractLsb' 0 12 ∧
    (word l).extractLsb' 12 4 = 0x1#4 ∧ (word l).extractLsb' 0 12 = l.extractLsb' 0 12 ∧
    encode (.dacWrite l) = .dac (word l)) ∧
  word 0#16 = 0x1000#16 ∧ word 405#16 = 0x1195#16

/-- A word of the table, placed by `withFetchWord`, is what the next step runs, whatever the state (log 6, log 11). -/
def Obligations.PlacedWordRunsNext : Prop :=
  ∀ (i : Instr) (s s' : State), i.wellFormed = true →
    (match encode i with
     | .fsm c => s' = s.withFetchWord 8 c.toNat
     | .dac w => s' = s.withFetchWord 16 w.toNat) →
    ∃ u, exec i s' = .next u ∧ step s' = .next (finishEdge u)

/-! ## The step -/

/-- A step on an edge out of reset runs the instruction its word decodes to, and beside it only shifts the synchroniser (R101, R140)
and uses up the model's own input and placed word (log 1, log 6); a placed word that decodes to nothing is refused. -/
def Obligations.StepRunsTheDecodedInstruction : Prop :=
  ∀ (s : State) (w : CodeWord), AtEdge s →
    (w = match s.dacCall with | none => .fsm s.st | some d => .dac d) →
    (∀ i, decode w = .ok i → ∃ u, exec i s = .next u ∧
      step s = .next { u with sync := (s.pins.compIn :: s.sync).dropLast, inputs := s.inputs.tail, drawIndex := s.drawIndex + 1, dacCall := none }) ∧
    (∀ why, decode w = .error why → step s = .refused (.dacWordRejected why))

/-- R37: while `rst_n` = 0 every register takes its reset value, from every state, on an edge of `clk` or between edges. -/
def Obligations.ResetValuesOfEveryRegister : Prop :=
  ∀ s : State, s.pins.rstN = false → ∃ t, step s = .next t ∧ AtResetValues s.params t

/-- What the model's own fields hold in reset, which is the model's choice: the parameters stay (log 2), one input is used
up and the instant counted (log 1), a placed word is dropped (log 6); and `State.reset`, whose parameters and PREV_INIT are
uninterpreted and whose inputs are not listed (logs 1, 2, 3). -/
def Obligations.ResetOfTheModelsOwnFields : Prop :=
  (∀ s : State, s.pins.rstN = false → ∃ t, step s = .next t ∧ AtResetValues s.params t ∧ t.params = s.params ∧
    t.inputs = s.inputs.tail ∧ t.drawIndex = s.drawIndex + 1 ∧ t.dacCall = none) ∧
  AtResetValues Config.params State.reset ∧ State.reset.params = Config.params ∧ State.reset.inputs = [] ∧
  State.reset.drawIndex = 0 ∧ State.reset.dacCall = none

/-- R250: as soon as `rst_n` is 0, edge or none, every register has its reset value and the outputs are idle; and however
long after the release the first edge comes (`k` instants between edges later), it executes INIT in that state. -/
def Obligations.FirstEdgeAfterResetIsInit : Prop :=
  ∀ s : State, s.pins.rstN = false →
    (∃ t, step s = .next t ∧ AtResetValues s.params t ∧ t.ports = Ports.idle) ∧
    ∀ k, (∀ j, 1 ≤ j → j ≤ k → (s.pinsAt j).clkRises = false ∧ (s.pinsAt j).rstN = true) →
      (s.pinsAt (k + 1)).clkRises = true → (s.pinsAt (k + 1)).rstN = true →
      ∃ t, after (k + 1) s = some t ∧ AtResetValues s.params t ∧ t.ports = Ports.idle ∧
        ∃ u, exec .init t = .next u ∧ step t = .next (finishEdge u)

/-- R20, second sentence, out of reset: at an instant that is no edge no register changes; only the model's own inputs move
on (log 1, log 5). -/
def Obligations.NothingChangesBetweenEdges : Prop :=
  ∀ s : State, s.pins.rstN = true → s.pins.clkRises = false →
    step s = .next { s with inputs := s.inputs.tail, drawIndex := s.drawIndex + 1 }

/-- R29: at every edge out of reset, in every state, `sync[0] <- comp_in` and `sync[k] <- sync[k-1]`; the chain keeps its
length, and an empty one stays empty. -/
def Obligations.SynchroniserShiftsAtEveryEdge : Prop :=
  ∀ s t : State, AtEdge s → step s = .next t →
    t.sync.length = s.sync.length ∧
    (s.sync.length ≠ 0 → t.sync[0]? = some s.pins.compIn) ∧
    (∀ k, 1 ≤ k → k < s.sync.length → t.sync[k]? = s.sync[k - 1]?)

/-- R75, first sentence: the `comp_s` before an edge is `comp_in` as sampled N_SYNC edges earlier, and at this edge itself
when N_SYNC = 0. -/
def Obligations.ComparatorReadIsNSyncEdgesOld : Prop :=
  ∀ s t : State, s.sync.length = s.params.nSync → RunsFor s.params.nSync s →
    after s.params.nSync s = some t → t.compS = s.pins.compIn

/-- A step has an outcome in every state: `rst_n` chooses (R101), the decode is total (R86), every state's rule names a
successor (R32). It answers a next state, with the parameters unchanged (R39), unless a placed word (log 6) has a CMD nibble
other than 0x1, which the block never produces (R87). -/
def Obligations.StepAlwaysAnswers : Prop :=
  ∀ s : State, (∀ w ∈ s.dacCall, w.extractLsb' 12 4 = 0x1#4) → ∃ t, step s = .next t ∧ t.params = s.params

/-- R104, last sentence, in every state without a placed word: out of reset a state of the loop (0x1..0x9) is followed by one
of the loop; TRAP is entered from INIT without a valid calibration and from an illegal code only, and once entered is not
left; and only reset leads back to INIT. -/
def Obligations.OnlyResetOrTrapStopsTheLoop : Prop :=
  ∀ s t : State, s.dacCall = none → step s = .next t →
    (s.pins.rstN = true → 0x1 ≤ s.st.toNat → s.st.toNat ≤ 0x9 → 0x1 ≤ t.st.toNat ∧ t.st.toNat ≤ 0x9) ∧
    (t.st = 0xF#4 → s.st ≠ 0xF#4 → AtEdge s ∧
      ((s.st = 0x0#4 ∧ s.pins.initDone = true ∧ s.pins.calValid = false) ∨ (0xA ≤ s.st.toNat ∧ s.st.toNat ≤ 0xE))) ∧
    (s.st = 0xF#4 → s.pins.rstN = true → t.st = 0xF#4) ∧
    (t.st = 0x0#4 → s.st ≠ 0x0#4 → s.pins.rstN = false)

/-! ## INIT and SAMPLE -/

/-- R100: INIT waits, goes on to SAMPLE, or traps; nothing else changes. -/
def Obligations.InitWaitsThenChecksCalibration : Prop :=
  ∀ s : State,
    (s.pins.initDone = false → exec .init s = .next { s with st := 0x0#4 }) ∧
    (s.pins.initDone = true → s.pins.calValid = true →
      exec .init s = .next { s with gate := true, cnt := s.params.tDwell - 1, st := 0x1#4 }) ∧
    (s.pins.initDone = true → s.pins.calValid = false → exec .init s = .next { s with st := 0xF#4 })

/-- R103: once the block has left INIT, no step depends on `init_done` or `cal_valid`. -/
def Obligations.StartInputsAreReadInInitOnly : Prop :=
  ∀ (s : State) (p : Inputs) (later : List Inputs) (a b : Bool), s.inputs = p :: later → s.st ≠ 0x0#4 →
    step { s with inputs := { p with initDone := a, calValid := b } :: later } = step s

/-- R271, first half: if `init_done` first reads 1 at the k-th coming edge, the block waits in INIT with its ports unchanged
until then; at that edge `sample_gate` rises, or the block traps where `cal_valid` = 0. -/
def Obligations.InitLastsUntilInitDone : Prop :=
  ∀ (s : State) (k : Nat), s.st = 0x0#4 → s.dacCall = none → RunsFor (k + 1) s →
    (∀ j < k, (s.pinsAt j).initDone = false) → (s.pinsAt k).initDone = true →
    (∀ j ≤ k, ∃ u, after j s = some u ∧ u.st = 0x0#4 ∧ u.ports = s.ports) ∧
    ∃ t, after (k + 1) s = some t ∧
      ((s.pinsAt k).calValid = true → t.st = 0x1#4 ∧ t.gate = true ∧ t.cnt = s.params.tDwell - 1) ∧
      ((s.pinsAt k).calValid = false → t.st = 0xF#4 ∧ t.ports = s.ports)

/-- R120: SAMPLE counts the dwell down with the gate as it is, then opens it, writes the ladder with `code` and starts the
first settle. -/
def Obligations.SampleDwellsThenOpensTheGate : Prop :=
  ∀ s : State,
    (s.cnt ≠ 0 → exec .sample s = .next { s with cnt := s.cnt - 1 }) ∧
    (s.cnt = 0 → exec .sample s =
      .next { s with gate := false, ladder := s.code, cnt := s.params.tLadder - 1, st := 0x2#4 })

/-- R123: a search is entered from SAMPLE alone, at the end of its dwell; SAMPLE is entered from INIT and RAMP_REST alone,
each time with the whole dwell to go (T_DWELL - 1 after the entry's own cycle), and each of its edges takes one cycle off. -/
def Obligations.TheSampleIsNeverSkipped : Prop :=
  ∀ s t : State, AtEdge s → s.dacCall = none → step s = .next t →
    (t.st = 0x2#4 → s.st = 0x2#4 ∨ s.st = 0x3#4 ∨ (s.st = 0x1#4 ∧ s.cnt = 0)) ∧
    (t.st = 0x1#4 →
      (s.st = 0x1#4 ∧ s.cnt ≠ 0 ∧ t.cnt = s.cnt - 1) ∨
      ((s.st = 0x0#4 ∨ s.st = 0x9#4) ∧ t.cnt = s.params.tDwell - 1))

/-! ## The search -/

/-- R142: RAMP_SETTLE counts the settle delay down, then the comparator is tested. -/
def Obligations.RampSettleWaitsThenCompares : Prop :=
  ∀ s : State,
    (s.cnt ≠ 0 → exec .rampSettle s = .next { s with cnt := s.cnt - 1 }) ∧
    (s.cnt = 0 → exec .rampSettle s = .next { s with st := 0x3#4 })

/-- R144: the match branch, with the word of the OLD `prev`; code and ladder stay. -/
def Obligations.MatchRecordsAndStartsTheFrame : Prop :=
  ∀ s : State, s.compS = true →
    exec .rampCompare s = .next { s with prev := s.code, sr := word (level (avg s.code s.prev)), mosi := (word (level (avg s.code s.prev))).getLsbD 15, sclk := false, csN := false, bitcnt := 0#4, cnt := s.params.sclkHalf - 1, st := 0x4#4 } ∧
    (word (level (avg s.code s.prev))).getLsbD 15 = false ∧
    (s.code = 50#8 → s.prev = 100#8 → word (level (avg s.code s.prev)) = 0x1195#16)

/-- R145, R146: without a match the search takes its next step, and after code 255 it ends with no DAC update. -/
def Obligations.NoMatchStepsOrExhausts : Prop :=
  ∀ s : State, s.compS = false →
    (s.code ≠ 255#8 → (s.code + 1#8).toNat = s.code.toNat + 1 ∧
      exec .rampCompare s = .next { s with code := s.code + 1#8, ladder := s.code + 1#8, cnt := s.params.tLadder - 1, st := 0x2#4 }) ∧
    (s.code = 255#8 → exec .rampCompare s = .next { s with code := 0#8, ladder := 0#8, st := 0x9#4 })

/-- R147: RAMP_REST closes the gate for the next sample. -/
def Obligations.RampRestStartsTheNextSample : Prop :=
  ∀ s : State, exec .rampRest s = .next { s with gate := true, cnt := s.params.tDwell - 1, st := 0x1#4 }

/-- R140, last sentences: only RAMP_COMPARE reads the comparator. In every other state a step with another `comp_in` and
another synchroniser ends in the same state but for the synchroniser. -/
def Obligations.ComparatorIsReadInRampCompareOnly : Prop :=
  ∀ (s t : State) (p : Inputs) (later : List Inputs) (b : Bool) (chain : List Bool), s.inputs = p :: later →
    p.clkRises = true → p.rstN = true → s.st ≠ 0x3#4 → step s = .next t →
    step { s with inputs := { p with compIn := b } :: later, sync := chain } =
      .next { t with sync := (b :: chain).dropLast }

/-- R25: `prev` is written by the match branch of RAMP_COMPARE only, with `code`. -/
def Obligations.PrevIsWrittenByAMatchOnly : Prop :=
  ∀ s t : State, AtEdge s → s.dacCall = none → step s = .next t →
    t.prev = if s.st = 0x3#4 ∧ s.compS = true then s.code else s.prev

/-- R24 with R222: `code` is written by the next-step and exhaustion branches of RAMP_COMPARE, by DAC_DONE and by the
illegal-state rule only (log 13), and `ladder` with it, or by SAMPLE with `code`. -/
def Obligations.CodeIsWrittenBySearchAndRestOnly : Prop :=
  ∀ s t : State, AtEdge s → s.dacCall = none → s.ladder = s.code → step s = .next t →
    t.ladder = t.code ∧
    t.code = if s.st = 0x3#4 ∧ s.compS = false then (if s.code = 255#8 then 0#8 else s.code + 1#8)
      else if s.st = 0x8#4 ∨ (0xA ≤ s.st.toNat ∧ s.st.toNat ≤ 0xE) then 0#8 else s.code

/-- R149, R150: under THRESHOLD(T), a search that starts at code 0 makes one step of T_LADDER + 1 cycles per code; for
T ≤ 255 it matches at T after T + 1 steps and sets `prev` to T; for T = 256 it ends after 256 steps with `prev` unchanged and
no DAC update. -/
def Obligations.SearchFindsTheThreshold : Prop :=
  ∀ (s : State) (T n : Nat), Inv s → s.st = 0x2#4 → s.cnt = s.params.tLadder - 1 → s.code = 0#8 → T ≤ 256 →
    n = (if T ≤ 255 then T + 1 else 256) * (s.params.tLadder + 1) → RunsFor n s → Threshold T s n →
    (∀ k < n, ∃ u, after k s = some u ∧ u.ladder.toNat = k / (s.params.tLadder + 1) ∧
      u.st = if k % (s.params.tLadder + 1) = s.params.tLadder then 0x3#4 else 0x2#4) ∧
    ∃ t, after n s = some t ∧
      (T ≤ 255 → t.st = 0x4#4 ∧ t.code.toNat = T ∧ t.prev.toNat = T ∧ t.csN = false ∧
        t.sr = word (level (avg (BitVec.ofNat 8 T) s.prev))) ∧
      (T = 256 → t.st = 0x9#4 ∧ t.code = 0#8 ∧ t.ladder = 0#8 ∧ t.prev = s.prev ∧ t.sr = s.sr ∧
        t.csN = s.csN ∧ t.sclk = s.sclk ∧ t.mosi = s.mosi)

/-- R262, first condition, and 95_test_vectors.md section 0: since T_LADDER ≥ N_SYNC (in Inv), a comparator that answers by
the ladder port alone gives THRESHOLD(T) in every search that begins during the run. -/
def Obligations.IdealComparatorGivesTheThreshold : Prop :=
  ∀ (s : State) (T n : Nat), Inv s → s.st = 0x0#4 ∨ s.st = 0x1#4 → RunsFor n s → IdealComparator T s n → Threshold T s n

/-! ## Smoothing and word packing -/

/-- R170: the mean, rounded toward zero, with no carry lost; between its operands, symmetric, the rule's examples. -/
def Obligations.SmoothingIsTheTruncatedMean : Prop :=
  (∀ a b : Ladder, (avg a b).toNat = (a.toNat + b.toNat) / 2 ∧ avg a b = avg b a ∧ avg a a = a ∧
    min a.toNat b.toNat ≤ (avg a b).toNat ∧ (avg a b).toNat ≤ max a.toNat b.toNat) ∧
  avg 10#8 11#8 = 10#8 ∧ avg 0#8 255#8 = 127#8 ∧ avg 50#8 100#8 = 75#8

/-- R171: s·5 + 30, in [30, 1305], 5 apart for consecutive s, the rule's examples. -/
def Obligations.LevelIsScaledAndOffset : Prop :=
  (∀ s : Ladder, (level s).toNat = s.toNat * 5 + 30 ∧ 30 ≤ (level s).toNat ∧ (level s).toNat ≤ 1305 ∧
    (s ≠ 255#8 → (level (s + 1#8)).toNat = (level s).toNat + 5)) ∧
  level 75#8 = 405#16 ∧ level 0#8 = 30#16 ∧ level 255#8 = 1305#16

/-- R172: a level is masked to 12 bits and cannot reach the command nibble; the rule's examples. -/
def Obligations.PackingMasksTheLevel : Prop :=
  (∀ x : Level, word x = 0x1000#16 ||| (x &&& 0x0FFF#16) ∧ word x &&& 0xF000#16 = 0x1000#16 ∧
    word x = word (BitVec.ofNat 16 (x.toNat % 4096)) ∧ (word x).toNat = 0x1000 + x.toNat % 4096) ∧
  word 0x0FFF#16 = 0x1FFF#16 ∧ word 0x1000#16 = 0x1000#16 ∧ word 0xFFFF#16 = 0x1FFF#16 ∧ word 405#16 = 0x1195#16

/-- R173: the word that a match loads, from `code` and the old `prev`; masking never changes its level. -/
def Obligations.MatchWordFormula : Prop :=
  ∀ s t : State, s.compS = true → exec .rampCompare s = .next t →
    t.sr = 0x1000#16 ||| (BitVec.ofNat 16 (((s.code.toNat + s.prev.toNat) >>> 1) * 5 + 30) &&& 0x0FFF#16) ∧
    (t.sr.extractLsb' 0 12).toNat = ((s.code.toNat + s.prev.toNat) >>> 1) * 5 + 30 ∧
    0x101E ≤ t.sr.toNat ∧ t.sr.toNat ≤ 0x1519 ∧
    (s.code = 50#8 → s.prev = 100#8 → t.sr = 0x1195#16)

/-- R175: the LEVEL field of a match's word is one of the 256 values 30, 35, ..., 1305, and each of them occurs. -/
def Obligations.OutputLevelsAreThe256Multiples : Prop :=
  (∀ s t : State, s.compS = true → exec .rampCompare s = .next t →
    ∃ k ≤ 255, (t.sr.extractLsb' 0 12).toNat = 30 + 5 * k) ∧
  ∀ k ≤ 255, ∃ s t : State, s.compS = true ∧ exec .rampCompare s = .next t ∧
    (t.sr.extractLsb' 0 12).toNat = 30 + 5 * k

/-- R154's last claim, as the spec writes it: two consecutive matches at T send equal words only if `prev` was T. FALSE by
R170: a `prev` of T + 1 gives the same mean (log 12). -/
def Obligations.EqualWordsOnlyFromEqualPrev : Prop :=
  ∀ T p : Ladder, word (level (avg T p)) = word (level (avg T T)) ↔ p = T

/-- What R170 and R171 give in place of R154's last claim (log 12): the words are equal exactly if `prev` was T or T + 1. -/
def Obligations.EqualWordsFromPrevOrItsSuccessor : Prop :=
  ∀ T p : Ladder, word (level (avg T p)) = word (level (avg T T)) ↔ p = T ∨ p.toNat = T.toNat + 1

/-! ## The DAC Driver -/

/-- R190: DAC_CS waits SCLK_HALF cycles, then SCLK rises for frame bit 0. -/
def Obligations.DacCsSetsUpThenRaisesSclk : Prop :=
  ∀ s : State,
    (s.cnt ≠ 0 → exec .dacCs s = .next { s with cnt := s.cnt - 1 }) ∧
    (s.cnt = 0 → exec .dacCs s = .next { s with sclk := true, cnt := s.params.sclkHalf - 1, st := 0x5#4 })

/-- R191, R192: the shared pseudocode of the two shift states, branch by branch. -/
def Obligations.ShiftStatesSendTheFrameBits : Prop :=
  ∀ (i : Instr) (s : State), i = .dacShiftHi ∨ i = .dacShiftLo →
    (s.cnt ≠ 0 → exec i s = .next { s with cnt := s.cnt - 1 }) ∧
    (s.cnt = 0 → s.sclk = false → exec i s = .next { s with sclk := true, cnt := s.params.sclkHalf - 1 }) ∧
    (s.cnt = 0 → s.sclk = true → s.bitcnt.toNat + 1 ≤ 7 →
      exec i s = .next { s with sclk := false, sr := s.sr <<< 1, mosi := s.sr.getLsbD 14, bitcnt := s.bitcnt + 1#4, cnt := s.params.sclkHalf - 1, st := 0x5#4 }) ∧
    (s.cnt = 0 → s.sclk = true → 7 < s.bitcnt.toNat + 1 → s.bitcnt ≠ 15#4 →
      exec i s = .next { s with sclk := false, sr := s.sr <<< 1, mosi := s.sr.getLsbD 14, bitcnt := s.bitcnt + 1#4, cnt := s.params.sclkHalf - 1, st := 0x6#4 }) ∧
    (s.cnt = 0 → s.sclk = true → s.bitcnt = 15#4 →
      exec i s = .next { s with sclk := false, mosi := false, cnt := s.params.tDacSettle - 1, st := 0x7#4 })

/-- R194: CS_n stays asserted for the settling delay, then rises. -/
def Obligations.DacSettleThenDeasserts : Prop :=
  ∀ s : State,
    (s.cnt ≠ 0 → exec .dacSettle s = .next { s with cnt := s.cnt - 1 }) ∧
    (s.cnt = 0 → exec .dacSettle s = .next { s with csN := true, st := 0x8#4 })

/-- R196: DAC_DONE puts code and ladder to rest. -/
def Obligations.DacDoneRestsTheLadder : Prop :=
  ∀ s : State, exec .dacDone s = .next { s with code := 0#8, ladder := 0#8, st := 0x9#4 }

/-- DAC_WRITE packs its level and starts a frame (R172, and R144 for the start; that it can be run alone is the model's
form, log 6). A match edge does the same with the match's level, and records the match. -/
def Obligations.DacWriteStartsAFrame : Prop :=
  ∀ (l : Level) (s : State),
    exec (.dacWrite l) s = .next { s with sr := 0x1000#16 ||| (l &&& 0x0FFF#16), mosi := false, sclk := false, csN := false, bitcnt := 0#4, cnt := s.params.sclkHalf - 1, st := 0x4#4 } ∧
    (s.compS = true → ∀ t u, exec .rampCompare s = .next t →
      exec (.dacWrite (level (avg s.code s.prev))) s = .next u → t = { u with prev := s.code })

/-- R27, R28: `bitcnt` and `sr` are written by a match and by the SCLK falling edges that are not the last, and
`sr[15]` is what `dac_mosi` carries while bits are sent. -/
def Obligations.ShiftRegisterFollowsTheFallingEdges : Prop :=
  ∀ s t : State, Inv s → AtEdge s → step s = .next t →
    (shifting t.st → t.mosi = t.sr.getLsbD 15) ∧
    (s.st = 0x3#4 ∧ s.compS = true → t.bitcnt = 0#4 ∧ t.sr = word (matchLevel s)) ∧
    (¬(s.st = 0x3#4 ∧ s.compS = true) →
      (s.sclk = true ∧ t.sclk = false ∧ s.bitcnt ≠ 15#4 → t.bitcnt.toNat = s.bitcnt.toNat + 1 ∧ t.sr = s.sr <<< 1) ∧
      (¬(s.sclk = true ∧ t.sclk = false ∧ s.bitcnt ≠ 15#4) → t.bitcnt = s.bitcnt ∧ t.sr = s.sr))

/-- R195, and R81 for the states: the wire timing of a whole frame, begun by a match or by a placed word. That a placed word
begins a frame is the model's choice (log 6, DESIGN CHOICE); the rules speak of the match edge. With D the edge that begins it, the state after edge D + j is `after (j + 1) s`. SCLK is 1 exactly in the odd half periods of the 16
bits, bit i is on the wire in periods 2i and 2i + 1, CS_n is 0 up to D + 32·H + T_DAC_SETTLE, the ladder returns to 0 one
edge later and the gate rises one edge after that. DAC_CS lasts H cycles, DAC_SHIFT_HI 15·H, DAC_SHIFT_LO 16·H, DAC_SETTLE
T_DAC_SETTLE, DAC_DONE and RAMP_REST one each. -/
def Obligations.FrameWireTiming : Prop :=
  ∀ (s : State) (h settle j : Nat) (w : DacWord), s.params.legal → BeginsFrame s w →
    h = s.params.sclkHalf → settle = s.params.tDacSettle →
    RunsFor (32 * h + settle + 3) s → j ≤ 32 * h + settle + 2 →
    ∃ u, after (j + 1) s = some u ∧
      u.csN = decide (32 * h + settle ≤ j) ∧
      u.sclk = decide (j < 32 * h ∧ (j / h) % 2 = 1) ∧
      u.mosi = (decide (j < 32 * h) && w.getLsbD (15 - j / (2 * h))) ∧
      u.ladder = (if j ≤ 32 * h + settle then s.ladder else 0#8) ∧
      u.gate = (if j ≤ 32 * h + settle + 1 then s.gate else true) ∧
      u.st = (if j < h then 0x4#4 else if j < 16 * h then 0x5#4 else if j < 32 * h then 0x6#4
        else if j < 32 * h + settle then 0x7#4 else if j = 32 * h + settle then 0x8#4
        else if j = 32 * h + settle + 1 then 0x9#4 else 0x1#4)

/-- R197: from the edge that begins a frame, a match or a placed word, to the rise of CS_n a receiver on the wires is given
exactly one frame, the sixteen bits of the frame's word, most significant first. That a placed word begins a frame is the
model's choice (log 6, DESIGN CHOICE). -/
def Obligations.TheReceiverIsGivenTheWord : Prop :=
  ∀ (s : State) (r : Receiver) (w : DacWord) (n : Nat), s.params.legal → s.csN = true → BeginsFrame s w →
    n = 32 * s.params.sclkHalf + s.params.tDacSettle + 1 → RunsFor n s →
    ∃ t, watch n s r = some (t, { bits := [], frames := r.frames ++ [frameOf w] }) ∧ t.st = 0x8#4 ∧ t.csN = true

/-- R190 to R194 and R197 for the four DAC states alone: from the first cycle of DAC_CS, whatever the shift register holds
(R90, FRAME), the receiver is given the sixteen bits of it. -/
def Obligations.TheDacStatesSendTheShiftRegister : Prop :=
  ∀ (s : State) (r : Receiver) (n : Nat), s.params.legal → s.dacCall = none → s.st = 0x4#4 →
    s.cnt = s.params.sclkHalf - 1 → s.bitcnt = 0#4 → s.csN = false → s.sclk = false → s.mosi = s.sr.getLsbD 15 → r.bits = [] →
    n = 32 * s.params.sclkHalf + s.params.tDacSettle → RunsFor n s →
    ∃ t, watch n s r = some (t, { bits := [], frames := r.frames ++ [frameOf s.sr] }) ∧ t.st = 0x8#4 ∧ t.csN = true

/-- R251: if `rst_n` falls while a frame is sent, j edges after the edge that began it, CS_n rises at once, on an edge of
`clk` or between edges, with every register at its reset value; the wires have then shown the word's first (j / H + 1) / 2
bits, fewer than 16 before the last bit's rising edge of SCLK. What a receiver makes of them is outside (log 9). The frame is begun
by a match or by a placed word; that a placed word begins one is the model's choice (log 6, DESIGN CHOICE). -/
def Obligations.ResetCutsTheFrame : Prop :=
  ∀ (s : State) (r : Receiver) (w : DacWord) (h j bits : Nat), s.params.legal → s.csN = true → BeginsFrame s w →
    h = s.params.sclkHalf → j < 32 * h + s.params.tDacSettle → bits = (j / h + 1) / 2 →
    RunsFor (j + 1) s → (s.pinsAt (j + 1)).rstN = false →
    (∃ u, after (j + 1) s = some u ∧ inFrame u.st ∧ u.csN = false) ∧
    (j < 31 * h → bits < 16) ∧
    ∃ t, watch (j + 2) s r = some (t, { bits := [], frames := r.frames ++ [(frameOf w).take bits] }) ∧
      AtResetValues s.params t ∧ t.ports = Ports.idle

/-! ## Traps -/

/-- R220: TRAP assigns nothing but `st`, and while `rst_n` = 1 it is never left: after any number of instants only the
synchroniser (and the model's own inputs) have changed. -/
def Obligations.TrapIsForever : Prop :=
  (∀ s : State, exec .trap s = .next { s with st := 0xF#4 }) ∧
  ∀ (n : Nat) (s : State), s.st = 0xF#4 → s.dacCall = none → (∀ k < n, (s.pinsAt k).rstN = true) →
    ∃ t, after n s = some t ∧
      t = { s with sync := t.sync, inputs := s.inputs.drop n, drawIndex := s.drawIndex + n }

/-- R222: every illegal code forces the outputs idle and enters TRAP, and so does the step on it. -/
def Obligations.IllegalCodesGoIdleAndTrap : Prop :=
  (∀ (i : Instr) (x : BitVec 1) (s : State), i = .illegalAB x ∨ i = .illegalCD x ∨ i = .illegalE →
    exec i s = .next { s with gate := false, csN := true, sclk := false, mosi := false, code := 0#8, ladder := 0#8, st := 0xF#4 }) ∧
  ∀ s : State, 0xA ≤ s.st.toNat → s.st.toNat ≤ 0xE → AtEdge s → s.dacCall = none →
    ∃ t, step s = .next t ∧
      t = { s with gate := false, csN := true, sclk := false, mosi := false, code := 0#8, ladder := 0#8, st := 0xF#4, sync := t.sync, inputs := t.inputs, drawIndex := t.drawIndex }

/-! ## The whole machine -/

/-- R105: the state graph, for states in which `bitcnt` is on the side of its shift state (R38.7, part of the invariant). -/
def Obligations.StateGraph : Prop :=
  ∀ s t : State, AtEdge s → s.dacCall = none → (s.st = 0x5#4 → s.bitcnt.toNat ≤ 7) →
    (s.st = 0x6#4 → 8 ≤ s.bitcnt.toNat) → step s = .next t →
    (s.st = 0x0#4 → t.st = if s.pins.initDone then (if s.pins.calValid then 0x1#4 else 0xF#4) else 0x0#4) ∧
    (s.st = 0x1#4 → t.st = if s.cnt ≠ 0 then 0x1#4 else 0x2#4) ∧
    (s.st = 0x2#4 → t.st = if s.cnt ≠ 0 then 0x2#4 else 0x3#4) ∧
    (s.st = 0x3#4 → t.st = if s.compS then 0x4#4 else if s.code ≠ 255#8 then 0x2#4 else 0x9#4) ∧
    (s.st = 0x4#4 → t.st = if s.cnt ≠ 0 then 0x4#4 else 0x5#4) ∧
    (s.st = 0x5#4 → t.st = if s.cnt = 0 ∧ s.sclk = true ∧ s.bitcnt = 7#4 then 0x6#4 else 0x5#4) ∧
    (s.st = 0x6#4 → t.st = if s.cnt = 0 ∧ s.sclk = true ∧ s.bitcnt = 15#4 then 0x7#4 else 0x6#4) ∧
    (s.st = 0x7#4 → t.st = if s.cnt ≠ 0 then 0x7#4 else 0x8#4) ∧
    (s.st = 0x8#4 → t.st = 0x9#4) ∧
    (s.st = 0x9#4 → t.st = 0x1#4) ∧
    (0xA ≤ s.st.toNat → t.st = 0xF#4)

/-- The invariant holds at reset, for every legal parameter set and every environment, and at `State.reset`. -/
def Obligations.InvariantAtReset : Prop :=
  (∀ (p : Params) (ins : List Inputs) (d : Nat), p.legal → Inv (State.resetWith p ins d)) ∧ Inv State.reset

/-- The invariant is kept by every step: the ports' invariants of R38 with the legal code (R23), the bound of `cnt`, the
length of the synchroniser and the bit on `dac_mosi` (R28). -/
def Obligations.StepKeepsTheInvariant : Prop :=
  ∀ s t : State, Inv s → step s = .next t → Inv t

/-- R38, R23 and the bound of R8: from reset, after any number of instants under any inputs, the block is in a state that
meets the eight invariants, holds a legal code and keeps `cnt` within the largest delay less one. -/
def Obligations.ReachableStatesMeetTheInvariants : Prop :=
  ∀ (p : Params) (ins : List Inputs) (d n : Nat), p.legal →
    ∃ t, after n (State.resetWith p ins d) = some t ∧ PortInvariants t ∧ ¬(0xA ≤ t.st.toNat ∧ t.st.toNat ≤ 0xE) ∧
      t.cnt ≤ max (max p.tDwell p.tLadder) (max p.tDacSettle p.sclkHalf) - 1

/-- R26: a state with a delay, entered with `cnt` = D - 1, lasts exactly D cycles (here SAMPLE, RAMP_SETTLE, DAC_CS and
DAC_SETTLE, whose `cnt` is loaded once), its outputs unchanged. -/
def Obligations.DelayStatesLastExactly : Prop :=
  ∀ (s : State) (d : Nat), s.st = 0x1#4 ∨ s.st = 0x2#4 ∨ s.st = 0x4#4 ∨ s.st = 0x7#4 → s.dacCall = none →
    1 ≤ d → s.cnt = d - 1 → RunsFor d s →
    (∀ k < d, ∃ u, after k s = some u ∧ u.st = s.st ∧ u.cnt = d - 1 - k ∧ u.ports = s.ports) ∧
    ∃ t, after d s = some t ∧ t.st = s.st + 1#4

/-- R270, R122: from one rise of `sample_gate` to the next under THRESHOLD(T). The period is the rule's; the gate is closed
for exactly T_DWELL cycles and open for the rest. -/
def Obligations.LoopPeriodIsExact : Prop :=
  ∀ (s : State) (T period : Nat), Inv s → s.st = 0x1#4 → s.cnt = s.params.tDwell - 1 → T ≤ 256 →
    period = (if T ≤ 255 then s.params.tDwell + (T + 1) * (s.params.tLadder + 1) + 32 * s.params.sclkHalf + s.params.tDacSettle + 2
      else s.params.tDwell + 256 * (s.params.tLadder + 1) + 1) →
    RunsFor period s → Threshold T s period →
    (∀ k < period, ∃ u, after k s = some u ∧ u.gate = decide (k < s.params.tDwell)) ∧
    ∃ t, after period s = some t ∧ t.st = 0x1#4 ∧ t.cnt = s.params.tDwell - 1 ∧ t.gate = true

/-- R199, R151: a conversion cycle under THRESHOLD(T) gives the receiver exactly one frame after a match, that of the
match's word, and sets `prev` to T; after an exhaustion it gives none and leaves `prev`. -/
def Obligations.OneFramePerMatchNonePerMiss : Prop :=
  ∀ (s : State) (T period : Nat) (r : Receiver), Inv s → s.st = 0x1#4 → s.cnt = s.params.tDwell - 1 → T ≤ 256 →
    period = (if T ≤ 255 then s.params.tDwell + (T + 1) * (s.params.tLadder + 1) + 32 * s.params.sclkHalf + s.params.tDacSettle + 2
      else s.params.tDwell + 256 * (s.params.tLadder + 1) + 1) →
    RunsFor period s → Threshold T s period →
    ∃ t q, watch period s r = some (t, q) ∧ t.csN = true ∧
      (T ≤ 255 → q = { bits := [], frames := r.frames ++ [frameOf (word (level (avg (BitVec.ofNat 8 T) s.prev)))] } ∧
        t.prev = BitVec.ofNat 8 T) ∧
      (T = 256 → q = r ∧ t.prev = s.prev)

/-- R154, what it says of the two words (its last claim is EqualWordsOnlyFromEqualPrev): two consecutive conversion cycles
under the same THRESHOLD(T), T ≤ 255, with `prev` = p before the first, give the receiver two frames, of the levels
((T + p) >> 1)·5 + 30 and T·5 + 30. -/
def Obligations.TwoCyclesSendTheMeanThenTheLevel : Prop :=
  ∀ (s : State) (T period : Nat) (r : Receiver), Inv s → s.st = 0x1#4 → s.cnt = s.params.tDwell - 1 → T ≤ 255 →
    period = s.params.tDwell + (T + 1) * (s.params.tLadder + 1) + 32 * s.params.sclkHalf + s.params.tDacSettle + 2 →
    RunsFor (2 * period) s → Threshold T s (2 * period) →
    ∃ t, watch (2 * period) s r = some (t, { bits := [], frames := r.frames ++
        [frameOf (word (BitVec.ofNat 16 (((T + s.prev.toNat) >>> 1) * 5 + 30))), frameOf (word (BitVec.ofNat 16 (T * 5 + 30)))] }) ∧
      t.st = 0x1#4 ∧ t.prev.toNat = T
end

