-- ==== Sys2Proof/Laws/State.lean ====
section
/-! SUPPORT. What each shared operation does to each field: one lemma per operation and field, so that no proof unfolds a
record update. -/

namespace Sys2Proof.Machine

/-! ## State codes: simp's normal form is the numeral -/

@[simp] theorem stInit_eq : stInit = 0x0#4 := rfl
@[simp] theorem stSample_eq : stSample = 0x1#4 := rfl
@[simp] theorem stRampSettle_eq : stRampSettle = 0x2#4 := rfl
@[simp] theorem stRampCompare_eq : stRampCompare = 0x3#4 := rfl
@[simp] theorem stDacCs_eq : stDacCs = 0x4#4 := rfl
@[simp] theorem stDacShiftHi_eq : stDacShiftHi = 0x5#4 := rfl
@[simp] theorem stDacShiftLo_eq : stDacShiftLo = 0x6#4 := rfl
@[simp] theorem stDacSettle_eq : stDacSettle = 0x7#4 := rfl
@[simp] theorem stDacDone_eq : stDacDone = 0x8#4 := rfl
@[simp] theorem stRampRest_eq : stRampRest = 0x9#4 := rfl
@[simp] theorem stTrap_eq : stTrap = 0xF#4 := rfl

@[simp] theorem decodeFsm_init : decodeFsm 0x0#4 = .init := rfl
@[simp] theorem decodeFsm_sample : decodeFsm 0x1#4 = .sample := rfl
@[simp] theorem decodeFsm_rampSettle : decodeFsm 0x2#4 = .rampSettle := rfl
@[simp] theorem decodeFsm_rampCompare : decodeFsm 0x3#4 = .rampCompare := rfl
@[simp] theorem decodeFsm_dacCs : decodeFsm 0x4#4 = .dacCs := rfl
@[simp] theorem decodeFsm_dacShiftHi : decodeFsm 0x5#4 = .dacShiftHi := rfl
@[simp] theorem decodeFsm_dacShiftLo : decodeFsm 0x6#4 = .dacShiftLo := rfl
@[simp] theorem decodeFsm_dacSettle : decodeFsm 0x7#4 = .dacSettle := rfl
@[simp] theorem decodeFsm_dacDone : decodeFsm 0x8#4 = .dacDone := rfl
@[simp] theorem decodeFsm_rampRest : decodeFsm 0x9#4 = .rampRest := rfl
@[simp] theorem decodeFsm_A : decodeFsm 0xA#4 = .illegalAB 0#1 := rfl
@[simp] theorem decodeFsm_B : decodeFsm 0xB#4 = .illegalAB 1#1 := rfl
@[simp] theorem decodeFsm_C : decodeFsm 0xC#4 = .illegalCD 0#1 := rfl
@[simp] theorem decodeFsm_D : decodeFsm 0xD#4 = .illegalCD 1#1 := rfl
@[simp] theorem decodeFsm_illegalE : decodeFsm 0xE#4 = .illegalE := rfl
@[simp] theorem decodeFsm_trap : decodeFsm 0xF#4 = .trap := rfl

/-- The sixteen codes. -/
theorem stCode_cases (c : StCode) : c = 0x0#4 ∨ c = 0x1#4 ∨ c = 0x2#4 ∨ c = 0x3#4 ∨ c = 0x4#4 ∨ c = 0x5#4 ∨ c = 0x6#4 ∨
    c = 0x7#4 ∨ c = 0x8#4 ∨ c = 0x9#4 ∨ c = 0xA#4 ∨ c = 0xB#4 ∨ c = 0xC#4 ∨ c = 0xD#4 ∨ c = 0xE#4 ∨ c = 0xF#4 := by
  revert c; decide

/-! ## `raiseTrap` -/

@[simp] theorem raiseTrap_st (s : State) : (raiseTrap s).st = stTrap := rfl
@[simp] theorem raiseTrap_code (s : State) : (raiseTrap s).code = s.code := rfl
@[simp] theorem raiseTrap_prev (s : State) : (raiseTrap s).prev = s.prev := rfl
@[simp] theorem raiseTrap_cnt (s : State) : (raiseTrap s).cnt = s.cnt := rfl
@[simp] theorem raiseTrap_bitcnt (s : State) : (raiseTrap s).bitcnt = s.bitcnt := rfl
@[simp] theorem raiseTrap_sr (s : State) : (raiseTrap s).sr = s.sr := rfl
@[simp] theorem raiseTrap_sync (s : State) : (raiseTrap s).sync = s.sync := rfl
@[simp] theorem raiseTrap_gate (s : State) : (raiseTrap s).gate = s.gate := rfl
@[simp] theorem raiseTrap_ladder (s : State) : (raiseTrap s).ladder = s.ladder := rfl
@[simp] theorem raiseTrap_csN (s : State) : (raiseTrap s).csN = s.csN := rfl
@[simp] theorem raiseTrap_sclk (s : State) : (raiseTrap s).sclk = s.sclk := rfl
@[simp] theorem raiseTrap_mosi (s : State) : (raiseTrap s).mosi = s.mosi := rfl
@[simp] theorem raiseTrap_params (s : State) : (raiseTrap s).params = s.params := rfl
@[simp] theorem raiseTrap_inputs (s : State) : (raiseTrap s).inputs = s.inputs := rfl
@[simp] theorem raiseTrap_drawIndex (s : State) : (raiseTrap s).drawIndex = s.drawIndex := rfl
@[simp] theorem raiseTrap_dacCall (s : State) : (raiseTrap s).dacCall = s.dacCall := rfl

/-! ## `forceIdle` -/

@[simp] theorem forceIdle_st (s : State) : (forceIdle s).st = s.st := rfl
@[simp] theorem forceIdle_code (s : State) : (forceIdle s).code = 0#8 := rfl
@[simp] theorem forceIdle_prev (s : State) : (forceIdle s).prev = s.prev := rfl
@[simp] theorem forceIdle_cnt (s : State) : (forceIdle s).cnt = s.cnt := rfl
@[simp] theorem forceIdle_bitcnt (s : State) : (forceIdle s).bitcnt = s.bitcnt := rfl
@[simp] theorem forceIdle_sr (s : State) : (forceIdle s).sr = s.sr := rfl
@[simp] theorem forceIdle_sync (s : State) : (forceIdle s).sync = s.sync := rfl
@[simp] theorem forceIdle_gate (s : State) : (forceIdle s).gate = false := rfl
@[simp] theorem forceIdle_ladder (s : State) : (forceIdle s).ladder = 0#8 := rfl
@[simp] theorem forceIdle_csN (s : State) : (forceIdle s).csN = true := rfl
@[simp] theorem forceIdle_sclk (s : State) : (forceIdle s).sclk = false := rfl
@[simp] theorem forceIdle_mosi (s : State) : (forceIdle s).mosi = false := rfl
@[simp] theorem forceIdle_params (s : State) : (forceIdle s).params = s.params := rfl
@[simp] theorem forceIdle_inputs (s : State) : (forceIdle s).inputs = s.inputs := rfl
@[simp] theorem forceIdle_drawIndex (s : State) : (forceIdle s).drawIndex = s.drawIndex := rfl
@[simp] theorem forceIdle_dacCall (s : State) : (forceIdle s).dacCall = s.dacCall := rfl

/-! ## `countDown` -/

@[simp] theorem countDown_st (s : State) : (countDown s).st = s.st := rfl
@[simp] theorem countDown_code (s : State) : (countDown s).code = s.code := rfl
@[simp] theorem countDown_prev (s : State) : (countDown s).prev = s.prev := rfl
@[simp] theorem countDown_cnt (s : State) : (countDown s).cnt = s.cnt - 1 := rfl
@[simp] theorem countDown_bitcnt (s : State) : (countDown s).bitcnt = s.bitcnt := rfl
@[simp] theorem countDown_sr (s : State) : (countDown s).sr = s.sr := rfl
@[simp] theorem countDown_sync (s : State) : (countDown s).sync = s.sync := rfl
@[simp] theorem countDown_gate (s : State) : (countDown s).gate = s.gate := rfl
@[simp] theorem countDown_ladder (s : State) : (countDown s).ladder = s.ladder := rfl
@[simp] theorem countDown_csN (s : State) : (countDown s).csN = s.csN := rfl
@[simp] theorem countDown_sclk (s : State) : (countDown s).sclk = s.sclk := rfl
@[simp] theorem countDown_mosi (s : State) : (countDown s).mosi = s.mosi := rfl
@[simp] theorem countDown_params (s : State) : (countDown s).params = s.params := rfl
@[simp] theorem countDown_inputs (s : State) : (countDown s).inputs = s.inputs := rfl
@[simp] theorem countDown_drawIndex (s : State) : (countDown s).drawIndex = s.drawIndex := rfl
@[simp] theorem countDown_dacCall (s : State) : (countDown s).dacCall = s.dacCall := rfl

/-! ## `enterSample` -/

@[simp] theorem enterSample_st (s : State) : (enterSample s).st = stSample := rfl
@[simp] theorem enterSample_code (s : State) : (enterSample s).code = s.code := rfl
@[simp] theorem enterSample_prev (s : State) : (enterSample s).prev = s.prev := rfl
@[simp] theorem enterSample_cnt (s : State) : (enterSample s).cnt = s.params.tDwell - 1 := rfl
@[simp] theorem enterSample_bitcnt (s : State) : (enterSample s).bitcnt = s.bitcnt := rfl
@[simp] theorem enterSample_sr (s : State) : (enterSample s).sr = s.sr := rfl
@[simp] theorem enterSample_sync (s : State) : (enterSample s).sync = s.sync := rfl
@[simp] theorem enterSample_gate (s : State) : (enterSample s).gate = true := rfl
@[simp] theorem enterSample_ladder (s : State) : (enterSample s).ladder = s.ladder := rfl
@[simp] theorem enterSample_csN (s : State) : (enterSample s).csN = s.csN := rfl
@[simp] theorem enterSample_sclk (s : State) : (enterSample s).sclk = s.sclk := rfl
@[simp] theorem enterSample_mosi (s : State) : (enterSample s).mosi = s.mosi := rfl
@[simp] theorem enterSample_params (s : State) : (enterSample s).params = s.params := rfl
@[simp] theorem enterSample_inputs (s : State) : (enterSample s).inputs = s.inputs := rfl
@[simp] theorem enterSample_drawIndex (s : State) : (enterSample s).drawIndex = s.drawIndex := rfl
@[simp] theorem enterSample_dacCall (s : State) : (enterSample s).dacCall = s.dacCall := rfl

/-! ## `startStep` -/

@[simp] theorem startStep_st (c : Ladder) (s : State) : (startStep c s).st = stRampSettle := rfl
@[simp] theorem startStep_code (c : Ladder) (s : State) : (startStep c s).code = s.code := rfl
@[simp] theorem startStep_prev (c : Ladder) (s : State) : (startStep c s).prev = s.prev := rfl
@[simp] theorem startStep_cnt (c : Ladder) (s : State) : (startStep c s).cnt = s.params.tLadder - 1 := rfl
@[simp] theorem startStep_bitcnt (c : Ladder) (s : State) : (startStep c s).bitcnt = s.bitcnt := rfl
@[simp] theorem startStep_sr (c : Ladder) (s : State) : (startStep c s).sr = s.sr := rfl
@[simp] theorem startStep_sync (c : Ladder) (s : State) : (startStep c s).sync = s.sync := rfl
@[simp] theorem startStep_gate (c : Ladder) (s : State) : (startStep c s).gate = s.gate := rfl
@[simp] theorem startStep_ladder (c : Ladder) (s : State) : (startStep c s).ladder = c := rfl
@[simp] theorem startStep_csN (c : Ladder) (s : State) : (startStep c s).csN = s.csN := rfl
@[simp] theorem startStep_sclk (c : Ladder) (s : State) : (startStep c s).sclk = s.sclk := rfl
@[simp] theorem startStep_mosi (c : Ladder) (s : State) : (startStep c s).mosi = s.mosi := rfl
@[simp] theorem startStep_params (c : Ladder) (s : State) : (startStep c s).params = s.params := rfl
@[simp] theorem startStep_inputs (c : Ladder) (s : State) : (startStep c s).inputs = s.inputs := rfl
@[simp] theorem startStep_drawIndex (c : Ladder) (s : State) : (startStep c s).drawIndex = s.drawIndex := rfl
@[simp] theorem startStep_dacCall (c : Ladder) (s : State) : (startStep c s).dacCall = s.dacCall := rfl

/-! ## `restLadder` -/

@[simp] theorem restLadder_st (s : State) : (restLadder s).st = stRampRest := rfl
@[simp] theorem restLadder_code (s : State) : (restLadder s).code = 0#8 := rfl
@[simp] theorem restLadder_prev (s : State) : (restLadder s).prev = s.prev := rfl
@[simp] theorem restLadder_cnt (s : State) : (restLadder s).cnt = s.cnt := rfl
@[simp] theorem restLadder_bitcnt (s : State) : (restLadder s).bitcnt = s.bitcnt := rfl
@[simp] theorem restLadder_sr (s : State) : (restLadder s).sr = s.sr := rfl
@[simp] theorem restLadder_sync (s : State) : (restLadder s).sync = s.sync := rfl
@[simp] theorem restLadder_gate (s : State) : (restLadder s).gate = s.gate := rfl
@[simp] theorem restLadder_ladder (s : State) : (restLadder s).ladder = 0#8 := rfl
@[simp] theorem restLadder_csN (s : State) : (restLadder s).csN = s.csN := rfl
@[simp] theorem restLadder_sclk (s : State) : (restLadder s).sclk = s.sclk := rfl
@[simp] theorem restLadder_mosi (s : State) : (restLadder s).mosi = s.mosi := rfl
@[simp] theorem restLadder_params (s : State) : (restLadder s).params = s.params := rfl
@[simp] theorem restLadder_inputs (s : State) : (restLadder s).inputs = s.inputs := rfl
@[simp] theorem restLadder_drawIndex (s : State) : (restLadder s).drawIndex = s.drawIndex := rfl
@[simp] theorem restLadder_dacCall (s : State) : (restLadder s).dacCall = s.dacCall := rfl

/-! ## `startFrame` -/

@[simp] theorem startFrame_st (w : DacWord) (s : State) : (startFrame w s).st = stDacCs := rfl
@[simp] theorem startFrame_code (w : DacWord) (s : State) : (startFrame w s).code = s.code := rfl
@[simp] theorem startFrame_prev (w : DacWord) (s : State) : (startFrame w s).prev = s.prev := rfl
@[simp] theorem startFrame_cnt (w : DacWord) (s : State) : (startFrame w s).cnt = s.params.sclkHalf - 1 := rfl
@[simp] theorem startFrame_bitcnt (w : DacWord) (s : State) : (startFrame w s).bitcnt = 0#4 := rfl
@[simp] theorem startFrame_sr (w : DacWord) (s : State) : (startFrame w s).sr = w := rfl
@[simp] theorem startFrame_sync (w : DacWord) (s : State) : (startFrame w s).sync = s.sync := rfl
@[simp] theorem startFrame_gate (w : DacWord) (s : State) : (startFrame w s).gate = s.gate := rfl
@[simp] theorem startFrame_ladder (w : DacWord) (s : State) : (startFrame w s).ladder = s.ladder := rfl
@[simp] theorem startFrame_csN (w : DacWord) (s : State) : (startFrame w s).csN = false := rfl
@[simp] theorem startFrame_sclk (w : DacWord) (s : State) : (startFrame w s).sclk = false := rfl
@[simp] theorem startFrame_mosi (w : DacWord) (s : State) : (startFrame w s).mosi = w.getLsbD 15 := rfl
@[simp] theorem startFrame_params (w : DacWord) (s : State) : (startFrame w s).params = s.params := rfl
@[simp] theorem startFrame_inputs (w : DacWord) (s : State) : (startFrame w s).inputs = s.inputs := rfl
@[simp] theorem startFrame_drawIndex (w : DacWord) (s : State) : (startFrame w s).drawIndex = s.drawIndex := rfl
@[simp] theorem startFrame_dacCall (w : DacWord) (s : State) : (startFrame w s).dacCall = s.dacCall := rfl

/-! ## `raiseSclk` -/

@[simp] theorem raiseSclk_st (s : State) : (raiseSclk s).st = s.st := rfl
@[simp] theorem raiseSclk_code (s : State) : (raiseSclk s).code = s.code := rfl
@[simp] theorem raiseSclk_prev (s : State) : (raiseSclk s).prev = s.prev := rfl
@[simp] theorem raiseSclk_cnt (s : State) : (raiseSclk s).cnt = s.params.sclkHalf - 1 := rfl
@[simp] theorem raiseSclk_bitcnt (s : State) : (raiseSclk s).bitcnt = s.bitcnt := rfl
@[simp] theorem raiseSclk_sr (s : State) : (raiseSclk s).sr = s.sr := rfl
@[simp] theorem raiseSclk_sync (s : State) : (raiseSclk s).sync = s.sync := rfl
@[simp] theorem raiseSclk_gate (s : State) : (raiseSclk s).gate = s.gate := rfl
@[simp] theorem raiseSclk_ladder (s : State) : (raiseSclk s).ladder = s.ladder := rfl
@[simp] theorem raiseSclk_csN (s : State) : (raiseSclk s).csN = s.csN := rfl
@[simp] theorem raiseSclk_sclk (s : State) : (raiseSclk s).sclk = true := rfl
@[simp] theorem raiseSclk_mosi (s : State) : (raiseSclk s).mosi = s.mosi := rfl
@[simp] theorem raiseSclk_params (s : State) : (raiseSclk s).params = s.params := rfl
@[simp] theorem raiseSclk_inputs (s : State) : (raiseSclk s).inputs = s.inputs := rfl
@[simp] theorem raiseSclk_drawIndex (s : State) : (raiseSclk s).drawIndex = s.drawIndex := rfl
@[simp] theorem raiseSclk_dacCall (s : State) : (raiseSclk s).dacCall = s.dacCall := rfl

/-! ## `nextBit` -/

@[simp] theorem nextBit_st (s : State) : (nextBit s).st = (if s.bitcnt.toNat + 1 ≤ 7 then stDacShiftHi else stDacShiftLo) := rfl
@[simp] theorem nextBit_code (s : State) : (nextBit s).code = s.code := rfl
@[simp] theorem nextBit_prev (s : State) : (nextBit s).prev = s.prev := rfl
@[simp] theorem nextBit_cnt (s : State) : (nextBit s).cnt = s.params.sclkHalf - 1 := rfl
@[simp] theorem nextBit_bitcnt (s : State) : (nextBit s).bitcnt = s.bitcnt + 1#4 := rfl
@[simp] theorem nextBit_sr (s : State) : (nextBit s).sr = s.sr <<< 1 := rfl
@[simp] theorem nextBit_sync (s : State) : (nextBit s).sync = s.sync := rfl
@[simp] theorem nextBit_gate (s : State) : (nextBit s).gate = s.gate := rfl
@[simp] theorem nextBit_ladder (s : State) : (nextBit s).ladder = s.ladder := rfl
@[simp] theorem nextBit_csN (s : State) : (nextBit s).csN = s.csN := rfl
@[simp] theorem nextBit_sclk (s : State) : (nextBit s).sclk = false := rfl
@[simp] theorem nextBit_mosi (s : State) : (nextBit s).mosi = s.sr.getLsbD 14 := rfl
@[simp] theorem nextBit_params (s : State) : (nextBit s).params = s.params := rfl
@[simp] theorem nextBit_inputs (s : State) : (nextBit s).inputs = s.inputs := rfl
@[simp] theorem nextBit_drawIndex (s : State) : (nextBit s).drawIndex = s.drawIndex := rfl
@[simp] theorem nextBit_dacCall (s : State) : (nextBit s).dacCall = s.dacCall := rfl

/-! ## `endFrame` -/

@[simp] theorem endFrame_st (s : State) : (endFrame s).st = stDacSettle := rfl
@[simp] theorem endFrame_code (s : State) : (endFrame s).code = s.code := rfl
@[simp] theorem endFrame_prev (s : State) : (endFrame s).prev = s.prev := rfl
@[simp] theorem endFrame_cnt (s : State) : (endFrame s).cnt = s.params.tDacSettle - 1 := rfl
@[simp] theorem endFrame_bitcnt (s : State) : (endFrame s).bitcnt = s.bitcnt := rfl
@[simp] theorem endFrame_sr (s : State) : (endFrame s).sr = s.sr := rfl
@[simp] theorem endFrame_sync (s : State) : (endFrame s).sync = s.sync := rfl
@[simp] theorem endFrame_gate (s : State) : (endFrame s).gate = s.gate := rfl
@[simp] theorem endFrame_ladder (s : State) : (endFrame s).ladder = s.ladder := rfl
@[simp] theorem endFrame_csN (s : State) : (endFrame s).csN = s.csN := rfl
@[simp] theorem endFrame_sclk (s : State) : (endFrame s).sclk = false := rfl
@[simp] theorem endFrame_mosi (s : State) : (endFrame s).mosi = false := rfl
@[simp] theorem endFrame_params (s : State) : (endFrame s).params = s.params := rfl
@[simp] theorem endFrame_inputs (s : State) : (endFrame s).inputs = s.inputs := rfl
@[simp] theorem endFrame_drawIndex (s : State) : (endFrame s).drawIndex = s.drawIndex := rfl
@[simp] theorem endFrame_dacCall (s : State) : (endFrame s).dacCall = s.dacCall := rfl

/-! ## `matchBranch` -/

@[simp] theorem matchBranch_st (s : State) : (matchBranch s).st = stDacCs := rfl
@[simp] theorem matchBranch_code (s : State) : (matchBranch s).code = s.code := rfl
@[simp] theorem matchBranch_prev (s : State) : (matchBranch s).prev = s.code := rfl
@[simp] theorem matchBranch_cnt (s : State) : (matchBranch s).cnt = s.params.sclkHalf - 1 := rfl
@[simp] theorem matchBranch_bitcnt (s : State) : (matchBranch s).bitcnt = 0#4 := rfl
@[simp] theorem matchBranch_sr (s : State) : (matchBranch s).sr = word (matchLevel s) := rfl
@[simp] theorem matchBranch_sync (s : State) : (matchBranch s).sync = s.sync := rfl
@[simp] theorem matchBranch_gate (s : State) : (matchBranch s).gate = s.gate := rfl
@[simp] theorem matchBranch_ladder (s : State) : (matchBranch s).ladder = s.ladder := rfl
@[simp] theorem matchBranch_csN (s : State) : (matchBranch s).csN = false := rfl
@[simp] theorem matchBranch_sclk (s : State) : (matchBranch s).sclk = false := rfl
@[simp] theorem matchBranch_mosi (s : State) : (matchBranch s).mosi = (word (matchLevel s)).getLsbD 15 := rfl
@[simp] theorem matchBranch_params (s : State) : (matchBranch s).params = s.params := rfl
@[simp] theorem matchBranch_inputs (s : State) : (matchBranch s).inputs = s.inputs := rfl
@[simp] theorem matchBranch_drawIndex (s : State) : (matchBranch s).drawIndex = s.drawIndex := rfl
@[simp] theorem matchBranch_dacCall (s : State) : (matchBranch s).dacCall = s.dacCall := rfl

/-! ## `nextStep` -/

@[simp] theorem nextStep_st (s : State) : (nextStep s).st = stRampSettle := rfl
@[simp] theorem nextStep_code (s : State) : (nextStep s).code = s.code + 1#8 := rfl
@[simp] theorem nextStep_prev (s : State) : (nextStep s).prev = s.prev := rfl
@[simp] theorem nextStep_cnt (s : State) : (nextStep s).cnt = s.params.tLadder - 1 := rfl
@[simp] theorem nextStep_bitcnt (s : State) : (nextStep s).bitcnt = s.bitcnt := rfl
@[simp] theorem nextStep_sr (s : State) : (nextStep s).sr = s.sr := rfl
@[simp] theorem nextStep_sync (s : State) : (nextStep s).sync = s.sync := rfl
@[simp] theorem nextStep_gate (s : State) : (nextStep s).gate = s.gate := rfl
@[simp] theorem nextStep_ladder (s : State) : (nextStep s).ladder = s.code + 1#8 := rfl
@[simp] theorem nextStep_csN (s : State) : (nextStep s).csN = s.csN := rfl
@[simp] theorem nextStep_sclk (s : State) : (nextStep s).sclk = s.sclk := rfl
@[simp] theorem nextStep_mosi (s : State) : (nextStep s).mosi = s.mosi := rfl
@[simp] theorem nextStep_params (s : State) : (nextStep s).params = s.params := rfl
@[simp] theorem nextStep_inputs (s : State) : (nextStep s).inputs = s.inputs := rfl
@[simp] theorem nextStep_drawIndex (s : State) : (nextStep s).drawIndex = s.drawIndex := rfl
@[simp] theorem nextStep_dacCall (s : State) : (nextStep s).dacCall = s.dacCall := rfl

/-! ## `finishEdge` -/

@[simp] theorem finishEdge_st (s : State) : (finishEdge s).st = s.st := rfl
@[simp] theorem finishEdge_code (s : State) : (finishEdge s).code = s.code := rfl
@[simp] theorem finishEdge_prev (s : State) : (finishEdge s).prev = s.prev := rfl
@[simp] theorem finishEdge_cnt (s : State) : (finishEdge s).cnt = s.cnt := rfl
@[simp] theorem finishEdge_bitcnt (s : State) : (finishEdge s).bitcnt = s.bitcnt := rfl
@[simp] theorem finishEdge_sr (s : State) : (finishEdge s).sr = s.sr := rfl
@[simp] theorem finishEdge_sync (s : State) : (finishEdge s).sync = (s.pins.compIn :: s.sync).dropLast := rfl
@[simp] theorem finishEdge_gate (s : State) : (finishEdge s).gate = s.gate := rfl
@[simp] theorem finishEdge_ladder (s : State) : (finishEdge s).ladder = s.ladder := rfl
@[simp] theorem finishEdge_csN (s : State) : (finishEdge s).csN = s.csN := rfl
@[simp] theorem finishEdge_sclk (s : State) : (finishEdge s).sclk = s.sclk := rfl
@[simp] theorem finishEdge_mosi (s : State) : (finishEdge s).mosi = s.mosi := rfl
@[simp] theorem finishEdge_params (s : State) : (finishEdge s).params = s.params := rfl
@[simp] theorem finishEdge_inputs (s : State) : (finishEdge s).inputs = s.inputs.tail := rfl
@[simp] theorem finishEdge_drawIndex (s : State) : (finishEdge s).drawIndex = s.drawIndex + 1 := rfl
@[simp] theorem finishEdge_dacCall (s : State) : (finishEdge s).dacCall = none := rfl

/-! ## `holdReset` -/

@[simp] theorem holdReset_st (s : State) : (holdReset s).st = stInit := rfl
@[simp] theorem holdReset_code (s : State) : (holdReset s).code = 0#8 := rfl
@[simp] theorem holdReset_prev (s : State) : (holdReset s).prev = s.params.prevInit := rfl
@[simp] theorem holdReset_cnt (s : State) : (holdReset s).cnt = 0 := rfl
@[simp] theorem holdReset_bitcnt (s : State) : (holdReset s).bitcnt = 0#4 := rfl
@[simp] theorem holdReset_sr (s : State) : (holdReset s).sr = 0#16 := rfl
@[simp] theorem holdReset_sync (s : State) : (holdReset s).sync = List.replicate s.params.nSync false := rfl
@[simp] theorem holdReset_gate (s : State) : (holdReset s).gate = false := rfl
@[simp] theorem holdReset_ladder (s : State) : (holdReset s).ladder = 0#8 := rfl
@[simp] theorem holdReset_csN (s : State) : (holdReset s).csN = true := rfl
@[simp] theorem holdReset_sclk (s : State) : (holdReset s).sclk = false := rfl
@[simp] theorem holdReset_mosi (s : State) : (holdReset s).mosi = false := rfl
@[simp] theorem holdReset_params (s : State) : (holdReset s).params = s.params := rfl
@[simp] theorem holdReset_inputs (s : State) : (holdReset s).inputs = s.inputs.tail := rfl
@[simp] theorem holdReset_drawIndex (s : State) : (holdReset s).drawIndex = s.drawIndex + 1 := rfl
@[simp] theorem holdReset_dacCall (s : State) : (holdReset s).dacCall = none := rfl

/-! ## `betweenEdges` -/

@[simp] theorem betweenEdges_st (s : State) : (betweenEdges s).st = s.st := rfl
@[simp] theorem betweenEdges_code (s : State) : (betweenEdges s).code = s.code := rfl
@[simp] theorem betweenEdges_prev (s : State) : (betweenEdges s).prev = s.prev := rfl
@[simp] theorem betweenEdges_cnt (s : State) : (betweenEdges s).cnt = s.cnt := rfl
@[simp] theorem betweenEdges_bitcnt (s : State) : (betweenEdges s).bitcnt = s.bitcnt := rfl
@[simp] theorem betweenEdges_sr (s : State) : (betweenEdges s).sr = s.sr := rfl
@[simp] theorem betweenEdges_sync (s : State) : (betweenEdges s).sync = s.sync := rfl
@[simp] theorem betweenEdges_gate (s : State) : (betweenEdges s).gate = s.gate := rfl
@[simp] theorem betweenEdges_ladder (s : State) : (betweenEdges s).ladder = s.ladder := rfl
@[simp] theorem betweenEdges_csN (s : State) : (betweenEdges s).csN = s.csN := rfl
@[simp] theorem betweenEdges_sclk (s : State) : (betweenEdges s).sclk = s.sclk := rfl
@[simp] theorem betweenEdges_mosi (s : State) : (betweenEdges s).mosi = s.mosi := rfl
@[simp] theorem betweenEdges_params (s : State) : (betweenEdges s).params = s.params := rfl
@[simp] theorem betweenEdges_inputs (s : State) : (betweenEdges s).inputs = s.inputs.tail := rfl
@[simp] theorem betweenEdges_drawIndex (s : State) : (betweenEdges s).drawIndex = s.drawIndex + 1 := rfl
@[simp] theorem betweenEdges_dacCall (s : State) : (betweenEdges s).dacCall = s.dacCall := rfl

end Sys2Proof.Machine
end

