-- ==== Sys2Proof/Laws/Ops.lean ====
section
/-! SUPPORT. What the shared operations, an instruction, a step and a run can do, said once; later proofs cite these. -/

namespace Sys2Proof.Machine

/-! ## Parameters and operands -/

theorem params_legal : Config.params.legal := by
  simp only [Params.legal, Config.params]; omega

theorem avg_toNat (a b : Ladder) : (avg a b).toNat = (a.toNat + b.toNat) / 2 := by
  have := a.isLt; have := b.isLt
  simp only [avg, BitVec.toNat_ofNat, Nat.shiftRight_eq_div_pow]; omega

theorem level_toNat (s : Ladder) : (level s).toNat = s.toNat * 5 + 30 := by
  have := s.isLt
  simp only [level, Config.scale, Config.offset, BitVec.toNat_ofNat]; omega

theorem word_eq_append (l : Level) : word l = 0b0001#4 ++ l.extractLsb' 0 12 := by
  apply BitVec.eq_of_getLsbD_eq
  intro i hi
  simp only [word, Config.cmdWrite, BitVec.getLsbD_or, BitVec.getLsbD_and, BitVec.getLsbD_append, BitVec.getLsbD_extractLsb']
  interval_cases i <;> simp

theorem word_toNat (l : Level) : (word l).toNat = 4096 + l.toNat % 4096 := by
  rw [word_eq_append, BitVec.toNat_append, ← Nat.shiftLeft_add_eq_or_of_lt (BitVec.isLt _)]
  simp [BitVec.extractLsb'_toNat, Nat.shiftLeft_eq]

/-! ## Sets of state codes -/

@[simp] theorem inFrame_iff (c : StCode) : inFrame c ↔ c = 0x4#4 ∨ c = 0x5#4 ∨ c = 0x6#4 ∨ c = 0x7#4 := Iff.rfl

@[simp] theorem shifting_iff (c : StCode) : shifting c ↔ c = 0x4#4 ∨ c = 0x5#4 ∨ c = 0x6#4 := Iff.rfl

/-! ## Inputs -/

/-- The input ports depend on the list and the index alone. -/
theorem pinsAt_congr {s t : State} (hi : t.inputs = s.inputs) (hd : t.drawIndex = s.drawIndex) (k : Nat) :
    t.pinsAt k = s.pinsAt k := by
  simp only [State.pinsAt, hi, hd]

/-- One instant uses up one input. -/
theorem pinsAt_tail {s t : State} (hi : t.inputs = s.inputs.tail) (hd : t.drawIndex = s.drawIndex + 1) (k : Nat) :
    t.pinsAt k = s.pinsAt (k + 1) := by
  simp only [State.pinsAt, hi, hd]
  cases s.inputs with
  | nil => simp only [List.tail_nil, List.getD_nil]; congr 1; omega
  | cons p ps => simp only [List.tail_cons, List.getD_cons_succ]; congr 2; omega

theorem compS_congr {s t : State} (hs : t.sync = s.sync) (hi : t.inputs = s.inputs) (hd : t.drawIndex = s.drawIndex) :
    t.compS = s.compS := by
  simp only [State.compS, State.pins, hs, pinsAt_congr hi hd]

/-! ## An instruction -/

/-- One edge of the shared shift pseudocode (R191). -/
theorem shiftFrame_cases (s : State) :
    (s.cnt ≠ 0 ∧ shiftFrame s = countDown s) ∨
    (s.cnt = 0 ∧ s.sclk = false ∧ shiftFrame s = raiseSclk s) ∨
    (s.cnt = 0 ∧ s.sclk = true ∧ s.bitcnt ≠ 15#4 ∧ shiftFrame s = nextBit s) ∨
    (s.cnt = 0 ∧ s.sclk = true ∧ s.bitcnt = 15#4 ∧ shiftFrame s = endFrame s) := by
  unfold shiftFrame
  by_cases hc : s.cnt = 0 <;> cases hk : s.sclk <;> by_cases hb : s.bitcnt = 15#4 <;> simp [hc, hb]

/-- No instruction stops, and none touches what is the environment's or the build's. -/
theorem exec_next (i : Instr) (s : State) : ∃ u, exec i s = .next u ∧ u.sync = s.sync ∧ u.inputs = s.inputs ∧
    u.drawIndex = s.drawIndex ∧ u.params = s.params ∧ u.dacCall = s.dacCall := by
  cases i <;> refine ⟨_, rfl, ?_⟩
  case init => split_ifs <;> simp
  case sample => split_ifs <;> simp
  case rampSettle => split_ifs <;> simp
  case rampCompare => split_ifs <;> simp
  case dacCs => split_ifs <;> simp
  case dacShiftHi => rcases shiftFrame_cases s with ⟨_, e⟩ | ⟨_, _, e⟩ | ⟨_, _, _, e⟩ | ⟨_, _, _, e⟩ <;> simp [e]
  case dacShiftLo => rcases shiftFrame_cases s with ⟨_, e⟩ | ⟨_, _, e⟩ | ⟨_, _, _, e⟩ | ⟨_, _, _, e⟩ <;> simp [e]
  case dacSettle => split_ifs <;> simp
  all_goals simp [illegalState]

/-! ## A step -/

theorem step_of_reset {s : State} (h : s.pins.rstN = false) : step s = .next (holdReset s) := by
  simp [step, h]

theorem step_of_noEdge {s : State} (hr : s.pins.rstN = true) (hc : s.pins.clkRises = false) :
    step s = .next (betweenEdges s) := by
  simp [step, hr, hc]

theorem step_of_fetch {s u : State} {i : Instr} (h : AtEdge s) (hf : fetch s = .ok i)
    (he : exec i s = .next u) : step s = .next (finishEdge u) := by
  simp [step, h.1, h.2, hf, he]

theorem step_of_rejected {s : State} {why : Reject} (h : AtEdge s) (hf : fetch s = .error why) :
    step s = .refused (.dacWordRejected why) := by
  simp [step, h.1, h.2, hf]

theorem fetch_of_noCall {s : State} (h : s.dacCall = none) : fetch s = .ok (decodeFsm s.st) := by
  simp [fetch, h, decode]

/-- What a step can do: hold the reset, let an instant between edges pass, or run the fetched instruction and finish the
edge. -/
theorem step_cases {s t : State} (h : step s = .next t) :
    (s.pins.rstN = false ∧ t = holdReset s) ∨
    (s.pins.rstN = true ∧ s.pins.clkRises = false ∧ t = betweenEdges s) ∨
    (AtEdge s ∧ ∃ i u, fetch s = .ok i ∧ exec i s = .next u ∧ t = finishEdge u) := by
  by_cases hr : s.pins.rstN = false
  · exact .inl ⟨hr, by simpa [step_of_reset hr] using h.symm⟩
  have hr : s.pins.rstN = true := by simpa using hr
  by_cases hc : s.pins.clkRises = false
  · exact .inr (.inl ⟨hr, hc, by simpa [step_of_noEdge hr hc] using h.symm⟩)
  have he : AtEdge s := ⟨by simpa using hc, hr⟩
  cases hf : fetch s with
  | error why => simp [step_of_rejected he hf] at h
  | ok i =>
    obtain ⟨u, hu, -⟩ := exec_next i s
    exact .inr (.inr ⟨he, i, u, rfl, hu, by simpa [step_of_fetch he hf hu] using h.symm⟩)

/-- What a step on an edge can do. -/
theorem step_cases_atEdge {s t : State} (ha : AtEdge s) (h : step s = .next t) :
    ∃ i u, fetch s = .ok i ∧ exec i s = .next u ∧ t = finishEdge u := by
  obtain ⟨hr, -⟩ | ⟨-, hc, -⟩ | ⟨-, hx⟩ := step_cases h
  · simp [ha.2] at hr
  · simp [ha.1] at hc
  · exact hx

/-- With no placed word, a step on an edge runs the rule of the state in `st`. -/
theorem step_noCall {s : State} (h : AtEdge s) (hc : s.dacCall = none) :
    ∃ u, exec (decodeFsm s.st) s = .next u ∧ step s = .next (finishEdge u) := by
  obtain ⟨u, hu, -⟩ := exec_next (decodeFsm s.st) s
  exact ⟨u, hu, step_of_fetch h (fetch_of_noCall hc) hu⟩

/-! One lemma per legal code: what the edge does. -/

theorem step_init {s : State} (hr : AtEdge s) (hc : s.dacCall = none) (h : s.st = 0x0#4) :
    step s = .next (finishEdge (if s.pins.initDone then (if s.pins.calValid then enterSample s else raiseTrap s) else { s with st := stInit })) :=
  step_of_fetch (i := .init) hr (by rw [fetch_of_noCall hc, h]; rfl) rfl

theorem step_sample {s : State} (hr : AtEdge s) (hc : s.dacCall = none) (h : s.st = 0x1#4) :
    step s = .next (finishEdge (if s.cnt ≠ 0 then countDown s else { startStep s.code s with gate := false })) :=
  step_of_fetch (i := .sample) hr (by rw [fetch_of_noCall hc, h]; rfl) rfl

theorem step_rampSettle {s : State} (hr : AtEdge s) (hc : s.dacCall = none) (h : s.st = 0x2#4) :
    step s = .next (finishEdge (if s.cnt ≠ 0 then countDown s else { s with st := stRampCompare })) :=
  step_of_fetch (i := .rampSettle) hr (by rw [fetch_of_noCall hc, h]; rfl) rfl

theorem step_rampCompare {s : State} (hr : AtEdge s) (hc : s.dacCall = none) (h : s.st = 0x3#4) :
    step s = .next (finishEdge (if s.compS then matchBranch s else if s.code == 255#8 then restLadder s else nextStep s)) :=
  step_of_fetch (i := .rampCompare) hr (by rw [fetch_of_noCall hc, h]; rfl) rfl

theorem step_dacCs {s : State} (hr : AtEdge s) (hc : s.dacCall = none) (h : s.st = 0x4#4) :
    step s = .next (finishEdge (if s.cnt ≠ 0 then countDown s else { raiseSclk s with st := stDacShiftHi })) :=
  step_of_fetch (i := .dacCs) hr (by rw [fetch_of_noCall hc, h]; rfl) rfl

theorem step_dacShiftHi {s : State} (hr : AtEdge s) (hc : s.dacCall = none) (h : s.st = 0x5#4) :
    step s = .next (finishEdge (shiftFrame s)) :=
  step_of_fetch (i := .dacShiftHi) hr (by rw [fetch_of_noCall hc, h]; rfl) rfl

theorem step_dacShiftLo {s : State} (hr : AtEdge s) (hc : s.dacCall = none) (h : s.st = 0x6#4) :
    step s = .next (finishEdge (shiftFrame s)) :=
  step_of_fetch (i := .dacShiftLo) hr (by rw [fetch_of_noCall hc, h]; rfl) rfl

theorem step_dacSettle {s : State} (hr : AtEdge s) (hc : s.dacCall = none) (h : s.st = 0x7#4) :
    step s = .next (finishEdge (if s.cnt ≠ 0 then countDown s else { s with csN := true, st := stDacDone })) :=
  step_of_fetch (i := .dacSettle) hr (by rw [fetch_of_noCall hc, h]; rfl) rfl

theorem step_dacDone {s : State} (hr : AtEdge s) (hc : s.dacCall = none) (h : s.st = 0x8#4) :
    step s = .next (finishEdge (restLadder s)) :=
  step_of_fetch (i := .dacDone) hr (by rw [fetch_of_noCall hc, h]; rfl) rfl

theorem step_rampRest {s : State} (hr : AtEdge s) (hc : s.dacCall = none) (h : s.st = 0x9#4) :
    step s = .next (finishEdge (enterSample s)) :=
  step_of_fetch (i := .rampRest) hr (by rw [fetch_of_noCall hc, h]; rfl) rfl

theorem step_trap {s : State} (hr : AtEdge s) (hc : s.dacCall = none) (h : s.st = 0xF#4) :
    step s = .next (finishEdge (raiseTrap s)) :=
  step_of_fetch (i := .trap) hr (by rw [fetch_of_noCall hc, h]; rfl) rfl

theorem step_illegal {s : State} (hr : AtEdge s) (hc : s.dacCall = none) (h : illegalCode s.st) :
    step s = .next (finishEdge (illegalState s)) := by
  have he : exec (decodeFsm s.st) s = .next (illegalState s) := by
    rcases stCode_cases s.st with e | e | e | e | e | e | e | e | e | e | e | e | e | e | e | e <;>
      simp [e, illegalCode] at h <;> rw [e] <;> rfl
  exact step_of_fetch hr (fetch_of_noCall hc) he

/-- A step uses up one input, keeps the parameters, and places no word. -/
theorem step_environment {s t : State} (h : step s = .next t) :
    t.inputs = s.inputs.tail ∧ t.drawIndex = s.drawIndex + 1 ∧ t.params = s.params ∧
    (t.dacCall = none ∨ t.dacCall = s.dacCall) := by
  obtain ⟨-, rfl⟩ | ⟨-, -, rfl⟩ | ⟨-, i, u, -, he, rfl⟩ := step_cases h
  · exact ⟨rfl, rfl, rfl, .inl rfl⟩
  · exact ⟨rfl, rfl, rfl, .inr rfl⟩
  · obtain ⟨v, hv, -, hi, hd, hp, -⟩ := exec_next i s
    obtain rfl : u = v := by simpa using he.symm.trans hv
    simp [hi, hd, hp]

theorem pinsAt_step {s t : State} (h : step s = .next t) (k : Nat) : t.pinsAt k = s.pinsAt (k + 1) :=
  pinsAt_tail (step_environment h).1 (step_environment h).2.1 k

/-! ## A run -/

@[simp] theorem after_zero (s : State) : after 0 s = some s := rfl

theorem after_succ {s t : State} (h : step s = .next t) (n : Nat) : after (n + 1) s = after n t := by
  simp [after, h]

/-- A run of one instant or more begins with a step. -/
theorem after_succ_cases {n : Nat} {s u : State} (h : after (n + 1) s = some u) :
    ∃ t, step s = .next t ∧ after n t = some u := by
  unfold after at h
  split at h
  · rename_i t ht; exact ⟨t, ht, h⟩
  · simp at h
  · simp at h

/-- After `n` instants the inputs are the later ones. -/
theorem pinsAt_after {n : Nat} : ∀ {s u : State}, after n s = some u → ∀ k, u.pinsAt k = s.pinsAt (n + k) := by
  induction n with
  | zero => intro s u h k; simp only [after_zero, Option.some.injEq] at h; subst h; simp
  | succ n ih =>
    intro s u h k
    obtain ⟨t, ht, hu⟩ := after_succ_cases h
    rw [ih hu, pinsAt_step ht]; congr 1; omega

/-- A property that every step keeps holds after any run. -/
theorem after_induction {P : State → Prop} (hstep : ∀ {s t}, P s → step s = .next t → P t) {n : Nat} :
    ∀ {s u : State}, P s → after n s = some u → P u := by
  induction n with
  | zero => intro s u hs h; simp only [after_zero, Option.some.injEq] at h; exact h ▸ hs
  | succ n ih =>
    intro s u hs h
    obtain ⟨t, ht, hu⟩ := after_succ_cases h
    exact ih (hstep hs ht) hu

theorem after_add (m n : Nat) : ∀ s : State, after (m + n) s = (after m s).bind (after n) := by
  induction m with
  | zero => intro s; simp
  | succ m ih =>
    intro s
    rw [Nat.add_right_comm]
    simp only [after]
    cases step s <;> simp [ih]

/-- `check` at each of the next `n` states of the run from `s`, in one pass. -/
def along (check : State → Bool) : Nat → State → Bool
  | 0, _ => true
  | n + 1, s =>
    check s &&
    match step s with
    | .next t => along check n t
    | .fault _ => true
    | .refused _ => true

theorem along_spec {check : State → Bool} {n : Nat} :
    ∀ {s : State}, along check n s = true → ∀ k < n, ∀ u ∈ after k s, check u = true := by
  induction n with
  | zero => intro s _ k hk; omega
  | succ n ih =>
    intro s h k hk u hu
    simp only [along, Bool.and_eq_true] at h
    cases k with
    | zero => simp only [after_zero, Option.mem_def, Option.some.injEq] at hu; exact hu ▸ h.1
    | succ k =>
      obtain ⟨t, ht, hu'⟩ := after_succ_cases hu
      rw [ht] at h
      exact ih h.2 k (by omega) u hu'

end Sys2Proof.Machine
end

