-- ==== Sys2Proof/Laws/PerInstr.lean ====
section
/-! SUPPORT. The facts that are stated of every instruction, one lemma per constructor of Instr. -/

namespace Sys2Proof.Laws

/-- An instruction's word in its format, masked, is the pattern of its row in spec/opcode_table.json. -/
def TableRow.Statement (i : Instr) : Prop :=
  match i, encode i with
  | .init, .fsm c => c &&& 0xF#4 = 0x0#4
  | .sample, .fsm c => c &&& 0xF#4 = 0x1#4
  | .rampSettle, .fsm c => c &&& 0xF#4 = 0x2#4
  | .rampCompare, .fsm c => c &&& 0xF#4 = 0x3#4
  | .dacCs, .fsm c => c &&& 0xF#4 = 0x4#4
  | .dacShiftHi, .fsm c => c &&& 0xF#4 = 0x5#4
  | .dacShiftLo, .fsm c => c &&& 0xF#4 = 0x6#4
  | .dacSettle, .fsm c => c &&& 0xF#4 = 0x7#4
  | .dacDone, .fsm c => c &&& 0xF#4 = 0x8#4
  | .rampRest, .fsm c => c &&& 0xF#4 = 0x9#4
  | .trap, .fsm c => c &&& 0xF#4 = 0xF#4
  | .illegalAB _, .fsm c => c &&& 0xE#4 = 0xA#4
  | .illegalCD _, .fsm c => c &&& 0xE#4 = 0xC#4
  | .illegalE, .fsm c => c &&& 0xF#4 = 0xE#4
  | .dacWrite _, .dac w => w &&& 0xF000#16 = 0x1000#16
  | _, _ => False

theorem TableRow.init : TableRow.Statement .init := by
  simp [TableRow.Statement, encode]
theorem TableRow.sample : TableRow.Statement .sample := by
  simp [TableRow.Statement, encode]
theorem TableRow.rampSettle : TableRow.Statement .rampSettle := by
  simp [TableRow.Statement, encode]
theorem TableRow.rampCompare : TableRow.Statement .rampCompare := by
  simp [TableRow.Statement, encode]
theorem TableRow.dacCs : TableRow.Statement .dacCs := by
  simp [TableRow.Statement, encode]
theorem TableRow.dacShiftHi : TableRow.Statement .dacShiftHi := by
  simp [TableRow.Statement, encode]
theorem TableRow.dacShiftLo : TableRow.Statement .dacShiftLo := by
  simp [TableRow.Statement, encode]
theorem TableRow.dacSettle : TableRow.Statement .dacSettle := by
  simp [TableRow.Statement, encode]
theorem TableRow.dacDone : TableRow.Statement .dacDone := by
  simp [TableRow.Statement, encode]
theorem TableRow.rampRest : TableRow.Statement .rampRest := by
  simp [TableRow.Statement, encode]
theorem TableRow.trap : TableRow.Statement .trap := by
  simp [TableRow.Statement, encode]
theorem TableRow.illegalAB (x : BitVec 1) : TableRow.Statement (.illegalAB x) := by
  show (0b101#3 ++ x) &&& 0xE#4 = 0xA#4
  revert x; decide
theorem TableRow.illegalCD (x : BitVec 1) : TableRow.Statement (.illegalCD x) := by
  show (0b110#3 ++ x) &&& 0xE#4 = 0xC#4
  revert x; decide
theorem TableRow.illegalE : TableRow.Statement .illegalE := by
  simp [TableRow.Statement, encode]
theorem TableRow.dacWrite (level16 : Level) : TableRow.Statement (.dacWrite level16) := by
  show (0b0001#4 ++ level16.extractLsb' 0 12) &&& 0xF000#16 = 0x1000#16
  apply BitVec.eq_of_getLsbD_eq
  intro i hi
  simp only [BitVec.getLsbD_and, BitVec.getLsbD_append, BitVec.getLsbD_extractLsb']
  interval_cases i <;> simp

end Sys2Proof.Laws
end

