-- ==== Sys2Proof/Tests/Slice0.lean ====
section
/-! SUPPORT. Tests of the model against the spec's own examples and vectors (spec/95_test_vectors.md, the rules' examples
and encodings; every expected value is the spec's), and, for each obligation with hypotheses, a witness that they can be met
together. -/

namespace Sys2Proof.Tests

open Sys2Proof Sys2Proof.Machine

/-! ## Well-formedness: each check refuses an ill-formed term -/

/-- R82: the LEVEL field has 12 bits. -/
theorem test_wellFormed_level : (Instr.dacWrite 4095#16).wellFormed = true ∧ (Instr.dacWrite 4096#16).wellFormed = false := by
  decide

/-- Parameter set PS-A of 95_test_vectors.md section 0. -/
def psA : Params := { tDwell := 2, tLadder := 2, tDacSettle := 1, sclkHalf := 1, nSync := 2, prevInit := 0#8 }

/-- Parameter set PS-B of 95_test_vectors.md section 0. -/
def psB : Params := { tDwell := 1, tLadder := 1, tDacSettle := 3, sclkHalf := 2, nSync := 0, prevInit := 255#8 }

/-- The smallest legal parameters, no synchroniser. -/
def psLeast : Params := { tDwell := 1, tLadder := 1, tDacSettle := 1, sclkHalf := 1, nSync := 0, prevInit := 0#8 }

theorem test_params_legal : psA.legal ∧ psB.legal ∧ psLeast.legal := by decide
theorem test_params_dwell : ¬({ psA with tDwell := 0 } : Params).legal := by decide
theorem test_params_ladder : ¬({ psB with tLadder := 0 } : Params).legal := by decide
/-- V-R9: T_LADDER = 1 with N_SYNC = 2 is outside R7. -/
theorem test_params_sync : ¬({ psA with tLadder := 1 } : Params).legal := by decide
theorem test_params_dacSettle : ¬({ psA with tDacSettle := 0 } : Params).legal := by decide
theorem test_params_sclkHalf : ¬({ psA with sclkHalf := 0 } : Params).legal := by decide

/-! ## Decoding: each row's word, written out from R81 and R82 -/

theorem test_decode_init : decode (.fsm 0b0000#4) = .ok .init := by decide
theorem test_decode_sample : decode (.fsm 0b0001#4) = .ok .sample := by decide
theorem test_decode_rampSettle : decode (.fsm 0b0010#4) = .ok .rampSettle := by decide
theorem test_decode_rampCompare : decode (.fsm 0b0011#4) = .ok .rampCompare := by decide
theorem test_decode_dacCs : decode (.fsm 0b0100#4) = .ok .dacCs := by decide
theorem test_decode_dacShiftHi : decode (.fsm 0b0101#4) = .ok .dacShiftHi := by decide
theorem test_decode_dacShiftLo : decode (.fsm 0b0110#4) = .ok .dacShiftLo := by decide
theorem test_decode_dacSettle : decode (.fsm 0b0111#4) = .ok .dacSettle := by decide
theorem test_decode_dacDone : decode (.fsm 0b1000#4) = .ok .dacDone := by decide
theorem test_decode_rampRest : decode (.fsm 0b1001#4) = .ok .rampRest := by decide
theorem test_decode_trap : decode (.fsm 0b1111#4) = .ok .trap := by decide
theorem test_decode_illegalAB : decode (.fsm 0b1010#4) = .ok (.illegalAB 0#1) ∧ decode (.fsm 0b1011#4) = .ok (.illegalAB 1#1) := by
  decide
theorem test_decode_illegalCD : decode (.fsm 0b1100#4) = .ok (.illegalCD 0#1) ∧ decode (.fsm 0b1101#4) = .ok (.illegalCD 1#1) := by
  decide
theorem test_decode_illegalE : decode (.fsm 0b1110#4) = .ok .illegalE := by decide
/-- R82, W6: level 405 is 0x1195; R61: high byte first. -/
theorem test_decode_dacWrite : decode (.dac 0b0001000110010101#16) = .ok (.dacWrite 405#16) ∧
    decodeBytes [0x11#8, 0x95#8] = .ok (.dacWrite 405#16) := by decide
/-- R87: a CMD nibble other than 0x1 is no word of the block; R88: there are no other lengths. -/
theorem test_decode_rejects : decode (.dac 0x2195#16) = .error (.dacCommand 0x2#4) ∧
    decodeBytes [0x13#8] = .error (.fsmPadding 0x1#4) ∧ decodeBytes [] = .error (.length 0) ∧
    decodeBytes [0#8, 0#8, 0#8] = .error (.length 3) := by decide

/-! ## One step, on small states -/

/-- A block of PS-A at a rising edge of `clk`, with `rst_n`, `init_done` and `cal_valid` at 1 and `comp_in` at 0. -/
def base : State := State.resetWith psA [⟨true, true, true, true, false⟩] 0

/-- What a test reads of a step's next state. -/
def nextIs (s : State) (p : State → Bool) : Bool :=
  match step s with
  | .next t => p t
  | .fault _ => false
  | .refused _ => false

/-- V-I3. -/
theorem test_init_goes : nextIs base (fun t => t.st == 0x1#4 && t.gate && t.cnt == 1) = true := by decide
/-- V-I2 and V-I4. -/
theorem test_init_waits_or_traps :
    nextIs { base with inputs := [⟨true, true, false, true, false⟩] } (fun t => t.st == 0x0#4 && !t.gate) = true ∧
    nextIs { base with inputs := [⟨true, true, true, false, false⟩] } (fun t => t.st == 0xF#4 && !t.gate && t.csN) = true := by
  decide
/-- V-S1 and V-S2: the exit edge. -/
theorem test_sample_exit : nextIs { base with st := 0x1#4, gate := true, cnt := 0 }
    (fun t => t.st == 0x2#4 && !t.gate && t.ladder == 0#8 && t.cnt == 1) = true := by decide
/-- V-S3: `comp_in` is ignored, the synchroniser shifts. -/
theorem test_sample_dwell : nextIs { base with st := 0x1#4, gate := true, cnt := 2, inputs := [⟨true, true, true, true, true⟩] }
    (fun t => t.st == 0x1#4 && t.gate && t.cnt == 1 && t.sync == [true, false]) = true := by decide
/-- V-R1. -/
theorem test_rampSettle : nextIs { base with st := 0x2#4, cnt := 0 } (fun t => t.st == 0x3#4) = true := by decide
/-- V-R2 and V-R4. -/
theorem test_rampCompare_noMatch :
    nextIs { base with st := 0x3#4, code := 7#8, ladder := 7#8 }
      (fun t => t.st == 0x2#4 && t.code == 8#8 && t.ladder == 8#8 && t.cnt == 1) = true ∧
    nextIs { base with st := 0x3#4, code := 255#8, ladder := 255#8, prev := 100#8 }
      (fun t => t.st == 0x9#4 && t.code == 0#8 && t.ladder == 0#8 && t.prev == 100#8 && t.csN) = true := by decide
/-- V-R5: a trip at code 255 is a match; and W6's word, from the OLD `prev`. -/
theorem test_rampCompare_match :
    nextIs { base with st := 0x3#4, code := 255#8, ladder := 255#8, prev := 255#8, sync := [false, true] }
      (fun t => t.st == 0x4#4 && !t.csN && t.sr == 0x1519#16 && t.code == 255#8 && t.ladder == 255#8) = true ∧
    nextIs { base with st := 0x3#4, code := 50#8, ladder := 50#8, prev := 100#8, sync := [false, true] }
      (fun t => t.sr == 0x1195#16 && t.prev == 50#8 && !t.mosi) = true := by decide
/-- Program 2, edge 13. -/
theorem test_dacCs : nextIs { base with st := 0x4#4, csN := false, sr := 0x1023#16 }
    (fun t => t.st == 0x5#4 && t.sclk && t.sr == 0x1023#16 && t.bitcnt == 0#4) = true := by decide
/-- V-D10, and Program 2, edge 18. -/
theorem test_dacShiftHi :
    nextIs { base with st := 0x5#4, csN := false, sclk := true, bitcnt := 7#4, sr := 0x1180#16 }
      (fun t => t.st == 0x6#4 && !t.sclk && t.bitcnt == 8#4 && t.sr == 0x2300#16 && !t.mosi) = true ∧
    nextIs { base with st := 0x5#4, csN := false, sclk := true, bitcnt := 2#4, sr := 0x408C#16 }
      (fun t => t.st == 0x5#4 && t.mosi && t.bitcnt == 3#4 && t.sr == 0x8118#16) = true := by decide
/-- V-D11. -/
theorem test_dacShiftLo : nextIs { base with st := 0x6#4, csN := false, sclk := true, bitcnt := 15#4, sr := 0x8000#16, mosi := true }
    (fun t => t.st == 0x7#4 && !t.sclk && !t.mosi && t.cnt == 0 && t.bitcnt == 15#4 && t.sr == 0x8000#16) = true := by decide
/-- V-D12. -/
theorem test_dacSettle : nextIs { base with st := 0x7#4, csN := false } (fun t => t.st == 0x8#4 && t.csN) = true := by decide
/-- V-D13. -/
theorem test_dacDone : nextIs { base with st := 0x8#4, code := 2#8, ladder := 2#8 }
    (fun t => t.st == 0x9#4 && t.code == 0#8 && t.ladder == 0#8) = true := by decide
/-- V-D14. -/
theorem test_rampRest : nextIs { base with st := 0x9#4 } (fun t => t.st == 0x1#4 && t.gate && t.cnt == 1) = true := by decide
/-- V-T1: only the synchroniser changes. -/
theorem test_trap : nextIs { base with st := 0xF#4, inputs := [⟨true, true, true, true, true⟩] }
    (fun t => t == { base with st := 0xF#4, inputs := [], drawIndex := 1, sync := [true, false] }) = true := by decide

/-- The upset of V-T2 in the middle of a frame. -/
def upset (c : StCode) : State :=
  { base with st := c, csN := false, sclk := true, mosi := true, ladder := 2#8, code := 2#8, prev := 2#8, sr := 0x2300#16, bitcnt := 8#4 }

/-- V-T2's outcome. -/
def upsetGone (t : State) : Bool :=
  t.st == 0xF#4 && !t.gate && t.csN && !t.sclk && !t.mosi && t.code == 0#8 && t.ladder == 0#8 && t.prev == 2#8 &&
    t.sr == 0x2300#16 && t.bitcnt == 8#4

theorem test_illegalAB : nextIs (upset 0xA#4) upsetGone = true ∧ nextIs (upset 0xB#4) upsetGone = true := by decide
theorem test_illegalCD : nextIs (upset 0xC#4) upsetGone = true ∧ nextIs (upset 0xD#4) upsetGone = true := by decide
theorem test_illegalE : nextIs (upset 0xE#4) upsetGone = true := by decide
/-- W7 and V-W5: the words of levels 0 and 0xFFFF start frames. -/
theorem test_dacWrite :
    nextIs (base.withFetchWord 16 0x1000) (fun t => t.st == 0x4#4 && !t.csN && t.sr == 0x1000#16) = true ∧
    nextIs (base.withFetchWord 16 0x1FFF) (fun t => t.sr == 0x1FFF#16 && t.bitcnt == 0#4) = true := by decide
/-- V-X1: `rst_n` falls in the middle of a frame, between two edges or at one. -/
theorem test_reset_in_frame : ∀ edge : Bool, nextIs { upset 0x5#4 with inputs := [⟨edge, false, true, true, true⟩] }
    (fun t => t == State.resetWith psA [] 1) = true := by decide
/-- R20: with `rst_n` = 1 an instant between two edges changes no register. -/
theorem test_between_edges : nextIs { upset 0x5#4 with inputs := [⟨false, true, true, true, true⟩] }
    (fun t => t == { upset 0x5#4 with inputs := [], drawIndex := 1 }) = true := by decide
/-- The first word of every row runs as the first instruction after reset, though reset's parameters and inputs are free. -/
theorem test_rows_run_after_reset :
    ([(8, 0x0), (8, 0x1), (8, 0x2), (8, 0x3), (8, 0x4), (8, 0x5), (8, 0x6), (8, 0x7), (8, 0x8), (8, 0x9), (8, 0xF), (8, 0xA),
      (8, 0xC), (8, 0xE), (16, 0x1000)].all fun r => nextIs (State.reset.withFetchWord r.1 r.2) fun _ => true) = true := by
  decide

/-- V-M1 to V-M12, code, prev, word. -/
theorem test_matchWords :
    ([(0, 0, 0x101E), (10, 11, 0x1050), (0, 255, 0x1299), (255, 0, 0x1299), (255, 255, 0x1519), (50, 100, 0x1195),
      (50, 50, 0x1118), (1, 0, 0x101E), (2, 0, 0x1023), (3, 4, 0x102D), (100, 100, 0x1212), (5, 0, 0x1028)].all
      fun r => word (level (avg (BitVec.ofNat 8 r.1) (BitVec.ofNat 8 r.2.1))) == BitVec.ofNat 16 r.2.2) = true := by decide
/-- V-D4: the frame of 0x1195. -/
theorem test_frameOf : frameOf 0x1195#16 =
    [false, false, false, true, false, false, false, true, true, false, false, true, false, true, false, true] := by decide

/-! ## Witnesses: states that meet an obligation's hypotheses -/

/-- A state in which `rst_n` falls, at an edge or between two; then an instant between edges, then an edge. -/
def inReset (edge : Bool) : State :=
  { base with inputs := [⟨edge, false, false, false, false⟩, ⟨false, true, false, false, false⟩, ⟨true, true, false, false, false⟩] }

theorem witness_ResetValuesOfEveryRegister : ∀ edge, (inReset edge).pins.rstN = false ∧ (inReset edge).pins.clkRises = edge := by
  decide
theorem witness_ResetOfTheModelsOwnFields : (inReset false).pins.rstN = false := by decide
theorem witness_FirstEdgeAfterResetIsInit : ∀ edge, (inReset edge).pins.rstN = false ∧
    (∀ j, 1 ≤ j → j ≤ 1 → ((inReset edge).pinsAt j).clkRises = false ∧ ((inReset edge).pinsAt j).rstN = true) ∧
    ((inReset edge).pinsAt 2).clkRises = true ∧ ((inReset edge).pinsAt 2).rstN = true := by
  intro edge
  refine ⟨by revert edge; decide, fun j h1 h2 => ?_, by revert edge; decide, by revert edge; decide⟩
  obtain rfl : j = 1 := by omega
  revert edge; decide
theorem witness_NothingChangesBetweenEdges :
    ({ base with inputs := [⟨false, true, false, false, false⟩] } : State).pins.rstN = true ∧
    ({ base with inputs := [⟨false, true, false, false, false⟩] } : State).pins.clkRises = false := by decide

theorem witness_DecodeInvertsEncode : (Instr.dacWrite 4095#16).wellFormed = true := by decide
theorem witness_EncodeInvertsDecode :
    decode (.fsm 0xB#4) = .ok (.illegalAB 1#1) ∧ decode (.dac 0x1FFF#16) = .ok (.dacWrite 4095#16) := by decide
theorem witness_StateDecodeChoosesTheRule : AtEdge base ∧ base.dacCall = none ∧
    0xA ≤ (0xA#4).toNat ∧ (0xE#4).toNat ≤ 0xE := by decide
theorem witness_PlacedWordRunsNext : ∃ i s s', Instr.wellFormed i = true ∧
    (match encode i with
     | .fsm c => s' = State.withFetchWord s 8 c.toNat
     | .dac w => s' = State.withFetchWord s 16 w.toNat) :=
  ⟨.dacWrite 405#16, base, _, by decide, rfl⟩
theorem witness_StepRunsTheDecodedInstruction :
    (AtEdge base ∧ decode (.fsm base.st) = .ok .init) ∧
    (AtEdge { base with dacCall := some 0x1195#16 } ∧ decode (.dac 0x1195#16) = .ok (.dacWrite 405#16)) ∧
    (AtEdge { base with dacCall := some 0x2195#16 } ∧ decode (.dac 0x2195#16) = .error (.dacCommand 0x2#4)) := by
  decide
theorem witness_SynchroniserShiftsAtEveryEdge : AtEdge base ∧ nextIs base (fun _ => true) = true ∧
    base.sync.length ≠ 0 ∧ 1 < base.sync.length := by decide
theorem witness_ComparatorReadIsNSyncEdgesOld : ∃ t, base.sync.length = base.params.nSync ∧
    RunsFor 2 { base with inputs := [⟨true, true, true, true, true⟩, ⟨true, true, true, true, false⟩] } ∧
    after 2 { base with inputs := [⟨true, true, true, true, true⟩, ⟨true, true, true, true, false⟩] } = some t :=
  ⟨_, by decide, by decide, rfl⟩

theorem witness_InitWaitsThenChecksCalibration :
    ({ base with inputs := [⟨true, true, false, true, false⟩] } : State).pins.initDone = false ∧
    (base.pins.initDone = true ∧ base.pins.calValid = true) ∧
    (({ base with inputs := [⟨true, true, true, false, false⟩] } : State).pins.initDone = true ∧
      ({ base with inputs := [⟨true, true, true, false, false⟩] } : State).pins.calValid = false) := by decide
theorem witness_StartInputsAreReadInInitOnly : ∃ (p : Inputs) (later : List Inputs),
    ({ base with st := 0x1#4 } : State).inputs = p :: later ∧ ({ base with st := 0x1#4 } : State).st ≠ 0x0#4 :=
  ⟨_, _, rfl, by decide⟩

/-- One edge of waiting, then the start, or the trap. -/
def waiting (cal : Bool) : State := { base with inputs := [⟨true, true, false, true, false⟩, ⟨true, true, true, cal, false⟩] }

theorem witness_InitLastsUntilInitDone : ∀ cal : Bool, (waiting cal).st = 0x0#4 ∧ (waiting cal).dacCall = none ∧
    RunsFor 2 (waiting cal) ∧ (∀ j < 1, ((waiting cal).pinsAt j).initDone = false) ∧ ((waiting cal).pinsAt 1).initDone = true ∧
    ((waiting cal).pinsAt 1).calValid = cal := by decide
theorem witness_SampleDwellsThenOpensTheGate : ({ base with cnt := 1 } : State).cnt ≠ 0 ∧ base.cnt = 0 := by decide
theorem witness_TheSampleIsNeverSkipped :
    nextIs { base with st := 0x1#4 } (fun t => t.st == 0x2#4) = true ∧ nextIs base (fun t => t.st == 0x1#4 && t.cnt == 1) = true ∧
    nextIs { base with st := 0x1#4, cnt := 1 } (fun t => t.st == 0x1#4 && t.cnt == 0) = true ∧
    AtEdge { base with st := 0x1#4 } ∧ AtEdge base ∧ ({ base with st := 0x1#4 } : State).dacCall = none ∧ base.dacCall = none := by
  decide
theorem witness_RampSettleWaitsThenCompares : ({ base with cnt := 1 } : State).cnt ≠ 0 ∧ base.cnt = 0 := by decide

/-- The comparator test of a code, matching or not. -/
def testing (c : Ladder) (hit : Bool) : State :=
  { base with st := 0x3#4, code := c, ladder := c, prev := 100#8, sync := [false, hit], inputs := List.replicate 40 ⟨true, true, true, true, false⟩ }

theorem witness_MatchRecordsAndStartsTheFrame :
    (testing 50#8 true).compS = true ∧ (testing 50#8 true).code = 50#8 ∧ (testing 50#8 true).prev = 100#8 := by decide
theorem witness_NoMatchStepsOrExhausts :
    ((testing 254#8 false).compS = false ∧ (testing 254#8 false).code ≠ 255#8) ∧
    ((testing 255#8 false).compS = false ∧ (testing 255#8 false).code = 255#8) := by decide
theorem witness_ComparatorIsReadInRampCompareOnly : ∃ (t : State) (p : Inputs) (later : List Inputs),
    ({ base with st := 0x2#4 } : State).inputs = p :: later ∧ p.clkRises = true ∧ p.rstN = true ∧
    ({ base with st := 0x2#4 } : State).st ≠ 0x3#4 ∧ step { base with st := 0x2#4 } = .next t :=
  ⟨_, _, _, rfl, by decide, by decide, by decide, rfl⟩
theorem witness_PrevIsWrittenByAMatchOnly :
    (AtEdge (testing 7#8 true) ∧ (testing 7#8 true).dacCall = none ∧ nextIs (testing 7#8 true) (fun t => t.prev == 7#8) = true) ∧
    nextIs (testing 7#8 false) (fun t => t.prev == 100#8) = true := by decide
theorem witness_CodeIsWrittenBySearchAndRestOnly :
    AtEdge (testing 255#8 false) ∧ (testing 255#8 false).dacCall = none ∧
    (testing 255#8 false).ladder = (testing 255#8 false).code ∧ nextIs (testing 255#8 false) (fun t => t.code == 0#8) = true ∧
    nextIs (testing 254#8 false) (fun t => t.code == 255#8) = true := by decide
theorem witness_MatchWordFormula : ∃ t, (testing 50#8 true).compS = true ∧ exec .rampCompare (testing 50#8 true) = .next t ∧
    (testing 50#8 true).code = 50#8 ∧ (testing 50#8 true).prev = 100#8 :=
  ⟨_, by decide, rfl, by decide, by decide⟩
theorem witness_LevelIsScaledAndOffset : (254#8 : Ladder) ≠ 255#8 := by decide
theorem witness_OutputLevelsAreThe256Multiples : ∃ t, (testing 255#8 true).compS = true ∧
    exec .rampCompare (testing 255#8 true) = .next t :=
  ⟨_, by decide, rfl⟩
theorem witness_DacCsSetsUpThenRaisesSclk : ({ base with cnt := 1 } : State).cnt ≠ 0 ∧ base.cnt = 0 := by decide

/-- A shift state at the end of a half period. -/
def shiftingBit (clock : Bool) (bit : BitIndex) : State := { base with sclk := clock, bitcnt := bit }

theorem witness_ShiftStatesSendTheFrameBits :
    ({ base with cnt := 1 } : State).cnt ≠ 0 ∧
    ((shiftingBit false 0#4).cnt = 0 ∧ (shiftingBit false 0#4).sclk = false) ∧
    ((shiftingBit true 6#4).cnt = 0 ∧ (shiftingBit true 6#4).sclk = true ∧ (shiftingBit true 6#4).bitcnt.toNat + 1 ≤ 7) ∧
    ((shiftingBit true 7#4).cnt = 0 ∧ (shiftingBit true 7#4).sclk = true ∧ 7 < (shiftingBit true 7#4).bitcnt.toNat + 1 ∧
      (shiftingBit true 7#4).bitcnt ≠ 15#4) ∧
    ((shiftingBit true 15#4).cnt = 0 ∧ (shiftingBit true 15#4).sclk = true ∧ (shiftingBit true 15#4).bitcnt = 15#4) := by decide
theorem witness_DacSettleThenDeasserts : ({ base with cnt := 1 } : State).cnt ≠ 0 ∧ base.cnt = 0 := by decide
theorem witness_DacWriteStartsAFrame : ∃ t u, (testing 50#8 true).compS = true ∧
    exec .rampCompare (testing 50#8 true) = .next t ∧
    exec (.dacWrite (level (avg (testing 50#8 true).code (testing 50#8 true).prev))) (testing 50#8 true) = .next u :=
  ⟨_, _, by decide, rfl, rfl⟩

/-- The state of a comparator test meets the invariant. -/
theorem testing_inv (hit : Bool) : Inv (testing 50#8 hit) := by
  cases hit <;>
    exact ⟨by decide, by decide, by decide, by decide,
      ⟨by decide, by decide, by decide, by decide, by decide, by decide, by decide, by decide, by decide, by decide⟩,
      by decide, by decide, by decide⟩

theorem witness_StepAlwaysAnswers : (∀ w ∈ (testing 50#8 true).dacCall, w.extractLsb' 12 4 = 0x1#4) ∧
    ∀ w ∈ ({ base with dacCall := some 0x1195#16 } : State).dacCall, w.extractLsb' 12 4 = 0x1#4 := by
  constructor
  · simp [testing, base, State.resetWith]
  · simp
/-- From the loop, into TRAP by each of its two ways, in TRAP, and back to INIT. -/
theorem witness_OnlyResetOrTrapStopsTheLoop :
    (base.dacCall = none ∧ base.pins.rstN = true ∧ nextIs { base with st := 0x9#4 } (fun t => t.st == 0x1#4) = true) ∧
    nextIs { base with inputs := [⟨true, true, true, false, false⟩] } (fun t => t.st == 0xF#4) = true ∧
    nextIs { base with st := 0xE#4 } (fun t => t.st == 0xF#4) = true ∧
    nextIs { base with st := 0xF#4 } (fun t => t.st == 0xF#4) = true ∧
    nextIs { inReset false with st := 0x9#4 } (fun t => t.st == 0x0#4) = true := by decide
theorem witness_StepKeepsTheInvariant : ∃ s t, Inv s ∧ step s = .next t := ⟨_, _, testing_inv true, rfl⟩

/-- The high half of frame bit 7, with the word of V-D10 on its way. -/
def fallingEdge (bit : BitIndex) (c : StCode) : State :=
  { base with st := c, csN := false, sclk := true, bitcnt := bit, sr := 0x1180#16 }

theorem fallingEdge_inv : Inv (fallingEdge 7#4 0x5#4) ∧ Inv (fallingEdge 15#4 0x6#4) := by
  constructor <;>
    exact ⟨by decide, by decide, by decide, by decide,
      ⟨by decide, by decide, by decide, by decide, by decide, by decide, by decide, by decide, by decide, by decide⟩,
      by decide, by decide, by decide⟩

theorem witness_ShiftRegisterFollowsTheFallingEdges :
    (∃ t, Inv (fallingEdge 7#4 0x5#4) ∧ AtEdge (fallingEdge 7#4 0x5#4) ∧ step (fallingEdge 7#4 0x5#4) = .next t ∧
      shifting t.st ∧ (fallingEdge 7#4 0x5#4).sclk = true ∧ t.sclk = false ∧ (fallingEdge 7#4 0x5#4).bitcnt ≠ 15#4) ∧
    (∃ t, Inv (fallingEdge 15#4 0x6#4) ∧ AtEdge (fallingEdge 15#4 0x6#4) ∧ step (fallingEdge 15#4 0x6#4) = .next t ∧
      (fallingEdge 15#4 0x6#4).bitcnt = 15#4) ∧
    ∃ t, Inv (testing 50#8 true) ∧ AtEdge (testing 50#8 true) ∧ step (testing 50#8 true) = .next t ∧
      (testing 50#8 true).st = 0x3#4 ∧ (testing 50#8 true).compS = true :=
  ⟨⟨_, fallingEdge_inv.1, by decide, rfl, by decide, by decide, by decide, by decide⟩,
   ⟨_, fallingEdge_inv.2, by decide, rfl, by decide⟩, ⟨_, testing_inv true, by decide, rfl, by decide, by decide⟩⟩

/-- A word placed for the DAC Driver during SAMPLE. -/
def placed : State := { testing 0#8 false with st := 0x1#4, gate := true, dacCall := some 0x1195#16 }

/-- The two ways a frame begins. -/
theorem begins : BeginsFrame (testing 50#8 true) 0x1195#16 ∧ BeginsFrame placed 0x1195#16 :=
  ⟨.inl ⟨by decide, by decide, by decide, by decide⟩, .inr ⟨by decide, by decide⟩⟩

/-- V-D8's parameters: D + 35 edges and the edge D itself. -/
theorem witness_FrameWireTiming : ∀ s ∈ [testing 50#8 true, placed], s.params.legal ∧ BeginsFrame s 0x1195#16 ∧
    1 = s.params.sclkHalf ∧ 1 = s.params.tDacSettle ∧ RunsFor (32 * 1 + 1 + 3) s := by
  simp only [List.forall_mem_cons, List.not_mem_nil, false_imp_iff, implies_true, and_true]
  exact ⟨⟨by decide, begins.1, by decide⟩, ⟨by decide, begins.2, by decide⟩⟩
theorem witness_TheReceiverIsGivenTheWord : ∀ s ∈ [testing 50#8 true, placed], s.params.legal ∧ s.csN = true ∧
    BeginsFrame s 0x1195#16 ∧ 34 = 32 * s.params.sclkHalf + s.params.tDacSettle + 1 ∧ RunsFor 34 s := by
  simp only [List.forall_mem_cons, List.not_mem_nil, false_imp_iff, implies_true, and_true]
  exact ⟨⟨by decide, by decide, begins.1, by decide⟩, ⟨by decide, by decide, begins.2, by decide⟩⟩

/-- The first cycle of DAC_CS, with a word whose top bit is 1. -/
def chipSelect : State := { testing 0#8 false with st := 0x4#4, csN := false, sr := 0xA195#16, mosi := true }

theorem witness_TheDacStatesSendTheShiftRegister : chipSelect.params.legal ∧ chipSelect.dacCall = none ∧ chipSelect.st = 0x4#4 ∧
    chipSelect.cnt = chipSelect.params.sclkHalf - 1 ∧ chipSelect.bitcnt = 0#4 ∧ chipSelect.csN = false ∧ chipSelect.sclk = false ∧
    chipSelect.mosi = chipSelect.sr.getLsbD 15 ∧ (⟨[], []⟩ : Receiver).bits = [] ∧
    33 = 32 * chipSelect.params.sclkHalf + chipSelect.params.tDacSettle ∧ RunsFor 33 chipSelect := by decide

/-- `s` with `j + 1` edges out of reset and then the fall of `rst_n` between two edges. -/
def cutAfter (j : Nat) (s : State) : State :=
  { s with inputs := List.replicate (j + 1) ⟨true, true, true, true, false⟩ ++ [⟨false, false, true, true, false⟩] }

/-- The edge that begins the frame, V-X1's (eight edges later, four bits), and the last edge of DAC_SETTLE. -/
theorem witness_ResetCutsTheFrame : (8 / 1 + 1) / 2 = 4 ∧ ∀ j ∈ [0, 8, 32],
    (cutAfter j (testing 50#8 true)).params.legal ∧ (cutAfter j (testing 50#8 true)).csN = true ∧
    BeginsFrame (cutAfter j (testing 50#8 true)) 0x1195#16 ∧ 1 = (cutAfter j (testing 50#8 true)).params.sclkHalf ∧
    j < 32 * 1 + (cutAfter j (testing 50#8 true)).params.tDacSettle ∧ RunsFor (j + 1) (cutAfter j (testing 50#8 true)) ∧
    ((cutAfter j (testing 50#8 true)).pinsAt (j + 1)).rstN = false := by
  have run : ∀ j ∈ [0, 8, 32], j < 33 ∧ RunsFor (j + 1) (cutAfter j (testing 50#8 true)) ∧
      ((cutAfter j (testing 50#8 true)).pinsAt (j + 1)).rstN = false := by decide
  refine ⟨rfl, fun j hj => ⟨?_, rfl, .inl ⟨rfl, rfl, rfl, ?_⟩, rfl, run j hj⟩⟩
  · show psA.legal; decide
  · show _ = word (matchLevel (testing 50#8 true)); decide

/-- TRAP, an edge and an instant between edges to come. -/
def inTrap : State := { base with st := 0xF#4, inputs := [⟨true, true, true, true, true⟩, ⟨false, true, true, true, true⟩] }

theorem witness_TrapIsForever : (inTrap.st = 0xF#4 ∧ inTrap.dacCall = none) ∧ ∀ k < 2, (inTrap.pinsAt k).rstN = true := by decide
theorem witness_IllegalCodesGoIdleAndTrap : ∀ c ∈ [0xA#4, 0xE#4], 0xA ≤ (upset c).st.toNat ∧ (upset c).st.toNat ≤ 0xE ∧
    AtEdge (upset c) ∧ (upset c).dacCall = none := by decide
theorem witness_StateGraph : ∀ c : StCode,
    (let s : State := { base with st := c, bitcnt := if c = 0x6#4 then 15#4 else 7#4, sclk := true }
     AtEdge s ∧ s.dacCall = none ∧ (s.st = 0x5#4 → s.bitcnt.toNat ≤ 7) ∧ (s.st = 0x6#4 → 8 ≤ s.bitcnt.toNat) ∧
       nextIs s (fun _ => true) = true ∧ s.st = c) := by decide
theorem witness_InvariantAtReset : psA.legal ∧ psB.legal := by decide
theorem witness_ReachableStatesMeetTheInvariants : psA.legal ∧ psB.legal := by decide
theorem witness_DelayStatesLastExactly : ∀ c ∈ [0x1#4, 0x2#4, 0x4#4, 0x7#4], ∀ d ∈ [1, 2],
    (let s : State := { base with st := c, cnt := d - 1, inputs := List.replicate 2 ⟨true, true, true, true, false⟩ }
     (s.st = 0x1#4 ∨ s.st = 0x2#4 ∨ s.st = 0x4#4 ∨ s.st = 0x7#4) ∧ s.dacCall = none ∧ 1 ≤ d ∧ s.cnt = d - 1 ∧ RunsFor d s) := by
  decide

/-! Whole searches and cycles: the smallest parameters, and a comparator that answers at each edge as THRESHOLD(T) asks. -/

/-- The answers of a comparator of threshold `T` at `n` edges, the search starting after `lead` of them. -/
def answers (T lead n : Nat) : List Inputs := (List.range n).map fun k => ⟨true, true, true, true, decide (T ≤ (k - lead) / 2)⟩

/-- The first cycle of a search. -/
def searching (T n : Nat) : State := { State.resetWith psLeast (answers T 0 n) 0 with st := 0x2#4 }

/-- The first cycle of a sample. -/
def sampling (T n : Nat) : State := { State.resetWith psLeast (answers T 1 n) 0 with st := 0x1#4, gate := true }

theorem searching_inv (T n : Nat) : Inv (searching T n) where
  legal := by show psLeast.legal; decide
  chain := rfl
  noCall := rfl
  legalCode := by simp [searching]
  ports := by constructor <;> simp [searching, State.resetWith]
  mosi_head := by simp [searching]
  mosi_settle := by simp [searching]
  cnt_le := Nat.zero_le _

theorem sampling_inv (T n : Nat) : Inv (sampling T n) where
  legal := by show psLeast.legal; decide
  chain := rfl
  noCall := rfl
  legalCode := by simp [sampling]
  ports := by constructor <;> simp [sampling, State.resetWith]
  mosi_head := by simp [sampling]
  mosi_settle := by simp [sampling]
  cnt_le := Nat.zero_le _

/-- THRESHOLD(T) as a check of one state. -/
def answersAt (T : Nat) (u : State) : Bool := u.st != stRampCompare || u.compS == decide (T ≤ u.code.toNat)

theorem threshold_of_check {T n : Nat} {s : State} (h : along (answersAt T) n s = true) : Threshold T s n := by
  intro k hk u hu hst
  simpa [answersAt, hst] using along_spec h k hk u hu

set_option maxRecDepth 20000 in
theorem searching_answers : along (answersAt 0) 2 (searching 0 2) = true ∧
    along (answersAt 255) 512 (searching 255 512) = true ∧ along (answersAt 256) 512 (searching 256 512) = true := by decide

/-- Listed edges out of reset are a run. -/
theorem runsFor_of_listed {s : State} (h : ∀ p ∈ s.inputs, p.clkRises = true ∧ p.rstN = true) : RunsFor s.inputs.length s := by
  intro k hk
  have e : s.pinsAt k = s.inputs[k] := by simp [State.pinsAt, hk]
  rw [e]; exact h _ (List.getElem_mem hk)

theorem runsFor_of_answers {s : State} {T lead n : Nat} (h : s.inputs = answers T lead n) : RunsFor n s := by
  have := runsFor_of_listed (s := s) (by simp [h, answers])
  simpa [h, answers] using this

theorem searching_runs (T n : Nat) : RunsFor n (searching T n) := runsFor_of_answers (T := T) (lead := 0) rfl

theorem sampling_runs (T n : Nat) : RunsFor n (sampling T n) := runsFor_of_answers (T := T) (lead := 1) rfl

theorem witness_SearchFindsTheThreshold : ∀ T ∈ [0, 255, 256], ∃ s n, Inv s ∧ s.st = 0x2#4 ∧ s.cnt = s.params.tLadder - 1 ∧
    s.code = 0#8 ∧ T ≤ 256 ∧ n = (if T ≤ 255 then T + 1 else 256) * (s.params.tLadder + 1) ∧ RunsFor n s ∧ Threshold T s n := by
  have w := searching_answers
  intro T hT
  simp only [List.mem_cons, List.not_mem_nil, or_false] at hT
  rcases hT with rfl | rfl | rfl
  · exact ⟨_, 2, searching_inv 0 2, rfl, rfl, rfl, by decide, by decide, searching_runs 0 2, threshold_of_check w.1⟩
  · exact ⟨_, 512, searching_inv 255 512, rfl, rfl, rfl, by decide, by decide, searching_runs 255 512, threshold_of_check w.2.1⟩
  · exact ⟨_, 512, searching_inv 256 512, rfl, rfl, rfl, by decide, by decide, searching_runs 256 512, threshold_of_check w.2.2⟩

set_option maxRecDepth 20000 in
theorem sampling_answers : along (answersAt 0) 38 (sampling 0 38) = true ∧
    along (answersAt 255) 548 (sampling 255 548) = true ∧ along (answersAt 256) 514 (sampling 256 514) = true := by decide

/-- The periods: 1 + 1·2 + 32 + 1 + 2 = 38, 1 + 256·2 + 35 = 548, and 1 + 256·2 + 1 = 514 for a miss. -/
theorem witness_LoopPeriodIsExact : ∀ T ∈ [0, 255, 256], ∃ s period, Inv s ∧ s.st = 0x1#4 ∧ s.cnt = s.params.tDwell - 1 ∧
    T ≤ 256 ∧ period = (if T ≤ 255 then s.params.tDwell + (T + 1) * (s.params.tLadder + 1) + 32 * s.params.sclkHalf + s.params.tDacSettle + 2
      else s.params.tDwell + 256 * (s.params.tLadder + 1) + 1) ∧ RunsFor period s ∧ Threshold T s period := by
  have w := sampling_answers
  intro T hT
  simp only [List.mem_cons, List.not_mem_nil, or_false] at hT
  rcases hT with rfl | rfl | rfl
  · exact ⟨_, 38, sampling_inv 0 38, rfl, rfl, by decide, by decide, sampling_runs 0 38, threshold_of_check w.1⟩
  · exact ⟨_, 548, sampling_inv 255 548, rfl, rfl, by decide, by decide, sampling_runs 255 548, threshold_of_check w.2.1⟩
  · exact ⟨_, 514, sampling_inv 256 514, rfl, rfl, by decide, by decide, sampling_runs 256 514, threshold_of_check w.2.2⟩

/-- The hypotheses of OneFramePerMatchNonePerMiss are those of LoopPeriodIsExact. -/
theorem witness_OneFramePerMatchNonePerMiss : ∀ T ∈ [0, 255, 256], ∃ s period, Inv s ∧ s.st = 0x1#4 ∧
    s.cnt = s.params.tDwell - 1 ∧ T ≤ 256 ∧
    period = (if T ≤ 255 then s.params.tDwell + (T + 1) * (s.params.tLadder + 1) + 32 * s.params.sclkHalf + s.params.tDacSettle + 2
      else s.params.tDwell + 256 * (s.params.tLadder + 1) + 1) ∧ RunsFor period s ∧ Threshold T s period :=
  witness_LoopPeriodIsExact

/-- A comparator of threshold 256 never trips, one of threshold 0 always does, one of threshold 3 trips at the run's fourth
test; here over a sample and four tests. -/
theorem witness_IdealComparatorGivesTheThreshold : ∀ T ∈ [0, 3, 256], ∃ s n, Inv s ∧ (s.st = 0x0#4 ∨ s.st = 0x1#4) ∧ RunsFor n s ∧
    IdealComparator T s n ∧ 9 ≤ n := by
  have check : ∀ T ∈ [0, 3, 256], along (fun u => u.pins.compIn == decide (T ≤ u.ladder.toNat)) 9 (sampling T 9) = true := by decide
  intro T hT
  exact ⟨sampling T 9, 9, sampling_inv T 9, .inr rfl, sampling_runs T 9,
    fun k hk u hu => by simpa using along_spec (check T hT) k hk u hu, by decide⟩

/-- The answers of a comparator of threshold `T` over two cycles of `period` edges each. -/
def twice (T period : Nat) : State := { sampling T period with inputs := answers T 1 period ++ answers T 1 period }

theorem twice_inv (T period : Nat) : Inv (twice T period) where
  legal := by show psLeast.legal; decide
  chain := rfl
  noCall := rfl
  legalCode := by simp [twice, sampling]
  ports := by constructor <;> simp [twice, sampling, State.resetWith]
  mosi_head := by simp [twice, sampling]
  mosi_settle := by simp [twice, sampling]
  cnt_le := Nat.zero_le _

theorem twice_runs (T period : Nat) : RunsFor (2 * period) (twice T period) := by
  have := runsFor_of_listed (s := twice T period) (by simp [twice, answers])
  simpa [twice, answers, Nat.two_mul] using this

set_option maxRecDepth 20000 in
theorem twice_answers : along (answersAt 0) 76 (twice 0 38) = true ∧ along (answersAt 3) 88 (twice 3 44) = true ∧
    along (answersAt 255) 1096 (twice 255 548) = true := by decide

theorem witness_TwoCyclesSendTheMeanThenTheLevel : ∀ T ∈ [0, 3, 255], ∃ s period, Inv s ∧ s.st = 0x1#4 ∧
    s.cnt = s.params.tDwell - 1 ∧ T ≤ 255 ∧
    period = s.params.tDwell + (T + 1) * (s.params.tLadder + 1) + 32 * s.params.sclkHalf + s.params.tDacSettle + 2 ∧
    RunsFor (2 * period) s ∧ Threshold T s (2 * period) := by
  have w := twice_answers
  intro T hT
  simp only [List.mem_cons, List.not_mem_nil, or_false] at hT
  rcases hT with rfl | rfl | rfl
  · exact ⟨_, 38, twice_inv 0 38, rfl, rfl, by decide, by decide, twice_runs 0 38, threshold_of_check w.1⟩
  · exact ⟨_, 44, twice_inv 3 44, rfl, rfl, by decide, by decide, twice_runs 3 44, threshold_of_check w.2.1⟩
  · exact ⟨_, 548, twice_inv 255 548, rfl, rfl, by decide, by decide, twice_runs 255 548, threshold_of_check w.2.2⟩

end Sys2Proof.Tests
end

section
/-! SUPPORT. What the rule of the state in `st` does at an edge: one constructor per branch of the rules' pseudocode. -/

namespace Sys2Proof.Machine

/-- The states with a delay counter (10_state.md R26). -/
abbrev delaying (c : StCode) : Prop := c = 0x1#4 ∨ c = 0x2#4 ∨ c = 0x4#4 ∨ c = 0x5#4 ∨ c = 0x6#4 ∨ c = 0x7#4

/-- `Branch s u`: the rule of the state in `s.st` takes one of its branches, and its register assignments give `u`. -/
inductive Branch (s : State) : State → Prop
  /-- INIT before `init_done` (R100), and TRAP (R220). -/
  | stay (hst : s.st = 0x0#4 ∧ s.pins.initDone = false ∨ s.st = 0xF#4) : Branch s s
  /-- A delay that is not over (R26). -/
  | wait (hst : delaying s.st) (hc : s.cnt ≠ 0) : Branch s (countDown s)
  /-- INIT with a valid calibration (R100), and RAMP_REST (R147). -/
  | sampleBegins (hst : s.st = 0x0#4 ∧ s.pins.initDone = true ∧ s.pins.calValid = true ∨ s.st = 0x9#4) :
      Branch s (enterSample s)
  /-- INIT without a valid calibration (R100). -/
  | calInvalid (hst : s.st = 0x0#4) (hi : s.pins.initDone = true) (hv : s.pins.calValid = false) : Branch s (raiseTrap s)
  /-- The end of SAMPLE (R120). -/
  | sampleEnds (hst : s.st = 0x1#4) (hc : s.cnt = 0) : Branch s { startStep s.code s with gate := false }
  /-- The end of RAMP_SETTLE (R142). -/
  | ladderSettled (hst : s.st = 0x2#4) (hc : s.cnt = 0) : Branch s { s with st := stRampCompare }
  /-- RAMP_COMPARE with a match (R144). -/
  | matched (hst : s.st = 0x3#4) (hm : s.compS = true) : Branch s (matchBranch s)
  /-- RAMP_COMPARE without a match, at the last code (R146). -/
  | exhausted (hst : s.st = 0x3#4) (hm : s.compS = false) (hl : s.code = 255#8) : Branch s (restLadder s)
  /-- RAMP_COMPARE without a match, before the last code (R145). -/
  | stepped (hst : s.st = 0x3#4) (hm : s.compS = false) (hl : s.code ≠ 255#8) : Branch s (nextStep s)
  /-- The end of DAC_CS (R190). -/
  | firstRise (hst : s.st = 0x4#4) (hc : s.cnt = 0) : Branch s { raiseSclk s with st := stDacShiftHi }
  /-- A rising edge of SCLK in a shift state (R191). -/
  | rise (hst : s.st = 0x5#4 ∨ s.st = 0x6#4) (hc : s.cnt = 0) (hk : s.sclk = false) : Branch s (raiseSclk s)
  /-- A falling edge of SCLK, the next bit being one of the bits 1 to 7 (R191). -/
  | fallHi (hst : s.st = 0x5#4 ∨ s.st = 0x6#4) (hc : s.cnt = 0) (hk : s.sclk = true) (hb : s.bitcnt ≠ 15#4)
      (hn : s.bitcnt.toNat < 7) : Branch s { nextBit s with st := stDacShiftHi }
  /-- A falling edge of SCLK, the next bit being one of the bits 8 to 15 (R191, R192). -/
  | fallLo (hst : s.st = 0x5#4 ∨ s.st = 0x6#4) (hc : s.cnt = 0) (hk : s.sclk = true) (hb : s.bitcnt ≠ 15#4)
      (hn : 7 ≤ s.bitcnt.toNat) : Branch s { nextBit s with st := stDacShiftLo }
  /-- The last falling edge of SCLK (R191). -/
  | lastFall (hst : s.st = 0x5#4 ∨ s.st = 0x6#4) (hc : s.cnt = 0) (hk : s.sclk = true) (hb : s.bitcnt = 15#4) :
      Branch s (endFrame s)
  /-- The end of DAC_SETTLE (R194). -/
  | deselect (hst : s.st = 0x7#4) (hc : s.cnt = 0) : Branch s { s with csN := true, st := stDacDone }
  /-- DAC_DONE (R196). -/
  | done (hst : s.st = 0x8#4) : Branch s (restLadder s)
  /-- An illegal code (R222). -/
  | illegal (hst : illegalCode s.st) : Branch s (raiseTrap (forceIdle s))

/-- The next bit is in the half of the frame that its index says. -/
theorem nextBit_eq (s : State) :
    (s.bitcnt.toNat < 7 ∧ nextBit s = { nextBit s with st := stDacShiftHi }) ∨
    (7 ≤ s.bitcnt.toNat ∧ nextBit s = { nextBit s with st := stDacShiftLo }) := by
  by_cases h : s.bitcnt.toNat < 7
  · exact .inl ⟨h, by simp [nextBit, Nat.succ_le_of_lt h]⟩
  · exact .inr ⟨by omega, by simp [nextBit, show ¬s.bitcnt.toNat + 1 ≤ 7 by omega]⟩

/-- The shift states' pseudocode takes one of its branches (R191). -/
theorem Branch.of_shiftFrame {s : State} (hst : s.st = 0x5#4 ∨ s.st = 0x6#4) : Branch s (shiftFrame s) := by
  rcases shiftFrame_cases s with ⟨hc, e⟩ | ⟨hc, hk, e⟩ | ⟨hc, hk, hb, e⟩ | ⟨hc, hk, hb, e⟩ <;> rw [e]
  · exact .wait (by tauto) hc
  · exact .rise hst hc hk
  · obtain ⟨hn, e⟩ | ⟨hn, e⟩ := nextBit_eq s <;> rw [e]
    · exact .fallHi hst hc hk hb hn
    · exact .fallLo hst hc hk hb hn
  · exact .lastFall hst hc hk hb

/-- A delay waits while `cnt` is not 0 (R26). -/
theorem Branch.of_delay {s v : State} (hst : delaying s.st) (hv : s.cnt = 0 → Branch s v) :
    Branch s (if s.cnt ≠ 0 then countDown s else v) := by
  split_ifs with hc
  · exact .wait hst hc
  · exact hv (not_not.mp hc)

/-- The legal codes, one by one. -/
theorem legalCode_cases {c : StCode} (h : ¬illegalCode c) : c = 0x0#4 ∨ c = 0x1#4 ∨ c = 0x2#4 ∨ c = 0x3#4 ∨ c = 0x4#4 ∨
    c = 0x5#4 ∨ c = 0x6#4 ∨ c = 0x7#4 ∨ c = 0x8#4 ∨ c = 0x9#4 ∨ c = 0xF#4 := by
  revert c; decide

/-- With no placed word, a step on an edge takes a branch of the rule of the state in `st` and finishes the edge. -/
theorem step_branch {s : State} (ha : AtEdge s) (hc : s.dacCall = none) :
    ∃ u, Branch s u ∧ step s = .next (finishEdge u) := by
  by_cases hi : illegalCode s.st
  · exact ⟨_, .illegal hi, step_illegal ha hc hi⟩
  rcases legalCode_cases hi with h | h | h | h | h | h | h | h | h | h | h
  · refine ⟨_, ?_, step_init ha hc h⟩
    split_ifs with h1 h2
    · exact .sampleBegins (.inl ⟨h, h1, h2⟩)
    · exact .calInvalid h h1 (by simpa using h2)
    · have e : { s with st := stInit } = s := by rw [stInit_eq, ← h]
      rw [e]; exact .stay (.inl ⟨h, by simpa using h1⟩)
  · exact ⟨_, .of_delay (by simp [delaying, h]) (.sampleEnds h), step_sample ha hc h⟩
  · exact ⟨_, .of_delay (by simp [delaying, h]) (.ladderSettled h), step_rampSettle ha hc h⟩
  · refine ⟨_, ?_, step_rampCompare ha hc h⟩
    split_ifs with h1 h2
    · exact .matched h h1
    · exact .exhausted h (by simpa using h1) (by simpa using h2)
    · exact .stepped h (by simpa using h1) (by simpa using h2)
  · exact ⟨_, .of_delay (by simp [delaying, h]) (.firstRise h), step_dacCs ha hc h⟩
  · exact ⟨_, .of_shiftFrame (.inl h), step_dacShiftHi ha hc h⟩
  · exact ⟨_, .of_shiftFrame (.inr h), step_dacShiftLo ha hc h⟩
  · exact ⟨_, .of_delay (by simp [delaying, h]) (.deselect h), step_dacSettle ha hc h⟩
  · exact ⟨_, .done h, step_dacDone ha hc h⟩
  · exact ⟨_, .sampleBegins (.inr h), step_rampRest ha hc h⟩
  · have e : raiseTrap s = s := by rw [raiseTrap, stTrap_eq, ← h]
    exact ⟨_, .stay (.inr h), by rw [step_trap ha hc h, e]⟩

/-- The branch that a step on an edge took. -/
theorem branch_of_step {s t : State} (ha : AtEdge s) (hc : s.dacCall = none) (h : step s = .next t) :
    ∃ u, Branch s u ∧ t = finishEdge u := by
  obtain ⟨u, hu, e⟩ := step_branch ha hc
  exact ⟨u, hu, by simpa [e] using h.symm⟩

/-- A branch leaves what is the environment's or the build's. -/
theorem Branch.environment {s u : State} (h : Branch s u) : u.sync = s.sync ∧ u.inputs = s.inputs ∧
    u.drawIndex = s.drawIndex ∧ u.params = s.params ∧ u.dacCall = s.dacCall := by
  cases h <;> simp

end Sys2Proof.Machine
end

section
/-! SUPPORT. What the branches do to each register, and that they keep the invariant. -/

namespace Sys2Proof.Machine

variable {s u : State}

/-! ## The falling edge of SCLK, and the bound of `cnt` -/

/-- The bit index does not wrap before frame bit 15. -/
theorem nextBit_bitcnt_toNat (hb : s.bitcnt ≠ 15#4) : (nextBit s).bitcnt.toNat = s.bitcnt.toNat + 1 := by
  have hlt : s.bitcnt.toNat ≠ 15 := fun e => hb (BitVec.eq_of_toNat_eq e)
  rw [nextBit_bitcnt, BitVec.toNat_add]
  have := s.bitcnt.isLt
  simp only [BitVec.toNat_ofNat]; omega

/-- No state's bound of `cnt` is above the largest delay less one. -/
theorem cntBound_le (s : State) : s.cntBound ≤
    max (max s.params.tDwell s.params.tLadder) (max s.params.tDacSettle s.params.sclkHalf) - 1 := by
  unfold State.cntBound
  split_ifs <;> omega

/-! ## One lemma per register -/

theorem Branch.legalCode (h : Branch s u) (hl : ¬illegalCode s.st) : ¬illegalCode u.st := by
  cases h with
  | stay _ | wait _ _ | rise _ _ _ => exact hl
  | illegal hst => exact absurd hst hl
  | _ => simp

/-- R25: the match branch alone writes `prev`. -/
theorem Branch.prev_eq (h : Branch s u) : u.prev = if s.st = 0x3#4 ∧ s.compS = true then s.code else s.prev := by
  cases h with
  | matched hst hm => simp [hst, hm]
  | exhausted _ hm _ | stepped _ hm _ => simp [hm]
  | _ => exact (if_neg (by grind)).symm

/-- R24, R222: the branches that write `code`. -/
theorem Branch.code_eq (h : Branch s u) :
    u.code = if s.st = 0x3#4 ∧ s.compS = false then (if s.code = 255#8 then 0#8 else s.code + 1#8)
      else if s.st = 0x8#4 ∨ illegalCode s.st then 0#8 else s.code := by
  cases h with
  | matched hst hm => simp [hst, hm]
  | exhausted hst hm hl | stepped hst hm hl => simp [hst, hm, hl]
  | done hst => simp [hst]
  | illegal hst => exact ((if_neg (by grind)).trans (if_pos (.inr hst))).symm
  | _ => exact ((if_neg (by grind)).trans (if_neg (by grind))).symm

/-- R38.4: a branch that writes `ladder` or `code` leaves them equal. -/
theorem Branch.ladder_eq (h : Branch s u) (hl : s.ladder = s.code) : u.ladder = u.code := by
  cases h with
  | sampleEnds _ _ | exhausted _ _ _ | stepped _ _ _ | done _ | illegal _ => rfl
  | _ => exact hl

/-- R38.1. -/
theorem Branch.gate_iff (h : Branch s u) (hg : s.gate = true ↔ s.st = stSample) : u.gate = true ↔ u.st = stSample := by
  cases h with
  | stay _ | wait _ _ | rise _ _ _ => exact hg
  | sampleBegins _ | sampleEnds _ _ | illegal _ => simp
  | fallHi hst _ _ _ _ | fallLo hst _ _ _ _ | lastFall hst _ _ _ => rcases hst with hst | hst <;> simp [hg, hst]
  | calInvalid hst _ _ | ladderSettled hst _ | matched hst _ | exhausted hst _ _ | stepped hst _ _ | firstRise hst _
    | deselect hst _ | done hst => simp [hg, hst]

/-- R38.2: a match asserts chip-select, the end of DAC_SETTLE and an illegal code deassert it. -/
theorem Branch.csN_iff (h : Branch s u) (hn : s.csN = false ↔ inFrame s.st) : u.csN = false ↔ inFrame u.st := by
  cases h with
  | stay _ | wait _ _ | rise _ _ _ => exact hn
  | matched _ _ | deselect _ _ | illegal _ => simp
  | sampleBegins hst => obtain ⟨hst, -⟩ | hst := hst <;> simp [hn, hst]
  | fallHi hst _ _ _ _ | fallLo hst _ _ _ _ | lastFall hst _ _ _ => rcases hst with hst | hst <;> simp [hn, hst]
  | calInvalid hst _ _ | sampleEnds hst _ | ladderSettled hst _ | exhausted hst _ _ | stepped hst _ _ | firstRise hst _
    | done hst => simp [hn, hst]

/-- R38.3: SCLK is 1 in the shift states only. -/
theorem Branch.sclk_only (h : Branch s u) (hk : s.sclk = true → s.st = stDacShiftHi ∨ s.st = stDacShiftLo) :
    u.sclk = true → u.st = stDacShiftHi ∨ u.st = stDacShiftLo := by
  cases h with
  | stay _ | wait _ _ => exact hk
  | firstRise _ _ => simp
  | rise hst _ _ => exact fun _ => hst
  | matched _ _ | fallHi _ _ _ _ _ | fallLo _ _ _ _ _ | lastFall _ _ _ _ | illegal _ => simp
  | sampleBegins hst => obtain ⟨hst, -⟩ | hst := hst <;> simpa [hst] using hk
  | calInvalid hst _ _ | sampleEnds hst _ | ladderSettled hst _ | exhausted hst _ _ | stepped hst _ _ | deselect hst _
    | done hst => simpa [hst] using hk

/-- R38.5: the code is 0 where no search and no frame is under way. -/
theorem Branch.code_at_rest (h : Branch s u)
    (hr : s.st = stInit ∨ s.st = stSample ∨ s.st = stRampRest ∨ s.st = stTrap → s.code = 0#8) :
    u.st = stInit ∨ u.st = stSample ∨ u.st = stRampRest ∨ u.st = stTrap → u.code = 0#8 := by
  cases h with
  | stay _ | wait _ _ | rise _ _ _ => exact hr
  | exhausted _ _ _ | done _ | illegal _ => exact fun _ => rfl
  | sampleBegins hst => exact fun _ => hr (by obtain ⟨hst, -⟩ | hst := hst <;> simp [hst])
  | calInvalid hst _ _ => exact fun _ => hr (.inl hst)
  | sampleEnds _ _ | ladderSettled _ _ | matched _ _ | stepped _ _ _ | firstRise _ _ | fallHi _ _ _ _ _ | fallLo _ _ _ _ _
    | lastFall _ _ _ _ | deselect _ _ => simp

/-- R38.7: frame bits 0 to 7 are sent in DAC_SHIFT_HI, which is entered with bit 0. -/
theorem Branch.bitcnt_hi (h : Branch s u) (hc : s.st = stDacCs → s.bitcnt = 0#4)
    (hb : s.st = stDacShiftHi → s.bitcnt.toNat ≤ 7) : u.st = stDacShiftHi → u.bitcnt.toNat ≤ 7 := by
  cases h with
  | stay _ | wait _ _ | rise _ _ _ => exact hb
  | firstRise hst _ => simp [hc hst]
  | fallHi _ _ _ hl hn => exact fun _ => (nextBit_bitcnt_toNat hl).trans_le hn
  | _ => simp

/-- R38.7: frame bits 8 to 15 are sent in DAC_SHIFT_LO. -/
theorem Branch.bitcnt_lo (h : Branch s u) (hb : s.st = stDacShiftLo → 8 ≤ s.bitcnt.toNat) :
    u.st = stDacShiftLo → 8 ≤ u.bitcnt.toNat := by
  cases h with
  | stay _ | wait _ _ | rise _ _ _ => exact hb
  | fallLo _ _ _ hl hn => exact fun _ => (Nat.succ_le_succ hn).trans_eq (nextBit_bitcnt_toNat hl).symm
  | _ => simp

/-- R38.7: DAC_CS is entered by a match, with bit 0. -/
theorem Branch.bitcnt_cs (h : Branch s u) (hb : s.st = stDacCs → s.bitcnt = 0#4) : u.st = stDacCs → u.bitcnt = 0#4 := by
  cases h with
  | stay _ | wait _ _ | rise _ _ _ => exact hb
  | matched _ _ => exact fun _ => rfl
  | _ => simp

/-- R28: while bits are sent `mosi` is the top bit of `sr`, which a match loads and a falling edge shifts. -/
theorem Branch.mosi_head (h : Branch s u) (hm : shifting s.st → s.mosi = s.sr.getLsbD 15) :
    shifting u.st → u.mosi = u.sr.getLsbD 15 := by
  cases h with
  | stay _ | wait _ _ | rise _ _ _ => exact hm
  | matched _ _ => exact fun _ => rfl
  | firstRise hst _ => exact fun _ => hm (.inl hst)
  | fallHi _ _ _ _ _ | fallLo _ _ _ _ _ => simp
  | _ => simp

/-- The last falling edge of SCLK leaves `mosi` at 0 for DAC_SETTLE. -/
theorem Branch.mosi_settle (h : Branch s u) (hm : s.st = stDacSettle → s.mosi = false) :
    u.st = stDacSettle → u.mosi = false := by
  cases h with
  | stay _ | wait _ _ | rise _ _ _ => exact hm
  | lastFall _ _ _ _ => exact fun _ => rfl
  | _ => simp

/-- R38.8: chip-select rises out of DAC_SETTLE, where `mosi` is 0 already. -/
theorem Branch.mosi_idle (h : Branch s u) (hn : s.csN = false ↔ inFrame s.st) (hm : s.st = stDacSettle → s.mosi = false)
    (hi : s.csN = true → s.mosi = false) : u.csN = true → u.mosi = false := by
  cases h with
  | matched _ _ => simp
  | fallHi hst _ _ _ _ | fallLo hst _ _ _ _ => simp [hn.2 (show inFrame s.st by simp; tauto)]
  | lastFall _ _ _ _ | illegal _ => exact fun _ => rfl
  | deselect hst _ => exact fun _ => hm hst
  | _ => exact hi

/-- R26: a state with a delay is entered with one less than the delay, and one without is entered with 0. -/
theorem Branch.cnt_le (h : Branch s u) (hl : ¬illegalCode s.st) (hc : s.cnt ≤ s.cntBound) : u.cnt ≤ u.cntBound := by
  cases h with
  | stay _ => exact hc
  | wait _ _ => exact (Nat.sub_le _ _).trans hc
  | illegal hst => exact absurd hst hl
  | rise hst _ _ => rcases hst with hst | hst <;> simp [State.cntBound, hst]
  | calInvalid hst _ _ | exhausted hst _ _ | done hst => simpa [State.cntBound, hst] using hc
  | ladderSettled _ h0 | deselect _ h0 => simp [h0]
  | sampleBegins _ | sampleEnds _ _ | matched _ _ | stepped _ _ _ | firstRise _ _ | fallHi _ _ _ _ _ | fallLo _ _ _ _ _
    | lastFall _ _ _ _ => simp [State.cntBound]

end Sys2Proof.Machine
end

section
/-! SUPPORT. The invariant: at reset, at the instants between edges, and at every edge. -/

namespace Sys2Proof.Machine

variable {s t u : State}

/-- The registers' reset values are those of R37. -/
theorem resetWith_atResetValues (p : Params) (ins : List Inputs) (d : Nat) : AtResetValues p (State.resetWith p ins d) := by
  constructor <;> rfl

theorem resetWith_inv {p : Params} (hp : p.legal) (ins : List Inputs) (d : Nat) : Inv (State.resetWith p ins d) where
  legal := hp
  chain := List.length_replicate
  noCall := rfl
  legalCode := by simp [State.resetWith]
  ports := by constructor <;> simp [State.resetWith]
  mosi_head := by simp [State.resetWith]
  mosi_settle := by simp [State.resetWith]
  cnt_le := Nat.zero_le _

/-- The invariant reads the length of the synchroniser and the absence of a placed word, and no other part of what an
instant does beside the state rule. -/
theorem Inv.with_environment (hs : Inv s) {chain : List Bool} {ins : List Inputs} {d : Nat} {call : Option DacWord}
    (hl : chain.length = s.sync.length) (hc : call = none) :
    Inv { s with sync := chain, inputs := ins, drawIndex := d, dacCall := call } where
  legal := hs.legal
  chain := hl.trans hs.chain
  noCall := hc
  legalCode := hs.legalCode
  ports := { hs.ports with }
  mosi_head := hs.mosi_head
  mosi_settle := hs.mosi_settle
  cnt_le := hs.cnt_le

theorem finishEdge_inv (hs : Inv s) : Inv (finishEdge s) :=
  hs.with_environment (by simp) rfl

theorem betweenEdges_inv (hs : Inv s) : Inv (betweenEdges s) :=
  hs.with_environment rfl hs.noCall

/-- The gate and chip-select are asserted in different states (R38.6). -/
theorem exclusive_of_iff (hg : s.gate = true ↔ s.st = stSample) (hn : s.csN = false ↔ inFrame s.st) :
    ¬(s.gate = true ∧ s.csN = false) := by
  rintro ⟨h1, h2⟩
  simpa [hg.1 h1] using hn.1 h2

theorem Branch.portInvariants (h : Branch s u) (hs : Inv s) : PortInvariants u where
  gate_iff := h.gate_iff hs.ports.gate_iff
  csN_iff := h.csN_iff hs.ports.csN_iff
  sclk_only := h.sclk_only hs.ports.sclk_only
  ladder_eq := h.ladder_eq hs.ports.ladder_eq
  at_rest hr := by
    have hc := h.code_at_rest (fun e => (hs.ports.at_rest e).1) hr
    exact ⟨hc, (h.ladder_eq hs.ports.ladder_eq).trans hc⟩
  exclusive := exclusive_of_iff (h.gate_iff hs.ports.gate_iff) (h.csN_iff hs.ports.csN_iff)
  bitcnt_hi := h.bitcnt_hi hs.ports.bitcnt_cs hs.ports.bitcnt_hi
  bitcnt_lo := h.bitcnt_lo hs.ports.bitcnt_lo
  bitcnt_cs := h.bitcnt_cs hs.ports.bitcnt_cs
  mosi_idle := h.mosi_idle hs.ports.csN_iff hs.mosi_settle hs.ports.mosi_idle

theorem Branch.inv (h : Branch s u) (hs : Inv s) : Inv u := by
  obtain ⟨hsync, -, -, hp, hc⟩ := h.environment
  exact
    { legal := hp ▸ hs.legal
      chain := by rw [hsync, hp, hs.chain]
      noCall := hc.trans hs.noCall
      legalCode := h.legalCode hs.legalCode
      ports := h.portInvariants hs
      mosi_head := h.mosi_head hs.mosi_head
      mosi_settle := h.mosi_settle hs.mosi_settle
      cnt_le := h.cnt_le hs.legalCode hs.cnt_le }

theorem step_inv (hs : Inv s) (h : step s = .next t) : Inv t := by
  obtain ⟨-, rfl⟩ | ⟨-, -, rfl⟩ | ⟨ha, -⟩ := step_cases h
  · exact resetWith_inv hs.legal _ _
  · exact betweenEdges_inv hs
  · obtain ⟨u, hu, rfl⟩ := branch_of_step ha hs.noCall h
    exact finishEdge_inv (hu.inv hs)

/-- Without a placed word a step answers a next state. -/
theorem step_answers (hc : s.dacCall = none) : ∃ t, step s = .next t := by
  by_cases hr : s.pins.rstN = false
  · exact ⟨_, step_of_reset hr⟩
  by_cases he : s.pins.clkRises = false
  · exact ⟨_, step_of_noEdge (by simpa using hr) he⟩
  · obtain ⟨u, -, h⟩ := step_branch (s := s) ⟨by simpa using he, by simpa using hr⟩ hc
    exact ⟨_, h⟩

/-- From a state that meets the invariant every run answers, with the invariant and the parameters kept. -/
theorem after_inv (n : Nat) : ∀ {s : State}, Inv s → ∃ t, after n s = some t ∧ Inv t ∧ t.params = s.params := by
  induction n with
  | zero => exact fun hs => ⟨_, rfl, hs, rfl⟩
  | succ n ih =>
    intro s hs
    obtain ⟨t, ht⟩ := step_answers hs.noCall
    obtain ⟨v, hv, hi, hp⟩ := ih (step_inv hs ht)
    exact ⟨v, (after_succ ht n).trans hv, hi, hp.trans (step_environment ht).2.2.1⟩

end Sys2Proof.Machine
end

section
/-! SUPPORT. The shift register and the delays over one step or several. -/

namespace Sys2Proof.Machine

variable {s t u : State}

/-- R28: a falling edge of SCLK that is not the last shifts `sr` and counts the bit. -/
theorem Branch.shift_of_fall (h : Branch s u) (hl : ¬illegalCode s.st) (hm : ¬(s.st = 0x3#4 ∧ s.compS = true))
    (hk : s.sclk = true) (hu : u.sclk = false) (hb : s.bitcnt ≠ 15#4) :
    u.bitcnt.toNat = s.bitcnt.toNat + 1 ∧ u.sr = s.sr <<< 1 := by
  cases h with
  | fallHi _ _ _ _ _ | fallLo _ _ _ _ _ => exact ⟨nextBit_bitcnt_toNat hb, rfl⟩
  | matched hst hc => exact absurd ⟨hst, hc⟩ hm
  | lastFall _ _ _ he => exact absurd he hb
  | illegal hst => exact absurd hst hl
  | _ => simp [hk] at hu

/-- R27, R28: nothing but a match and such a falling edge writes `bitcnt` and `sr`. -/
theorem Branch.shift_frame (h : Branch s u) (hm : ¬(s.st = 0x3#4 ∧ s.compS = true))
    (hf : ¬(s.sclk = true ∧ u.sclk = false ∧ s.bitcnt ≠ 15#4)) : u.bitcnt = s.bitcnt ∧ u.sr = s.sr := by
  cases h with
  | fallHi _ _ hk hb _ | fallLo _ _ hk hb _ => exact absurd ⟨hk, rfl, hb⟩ hf
  | matched hst hc => exact absurd ⟨hst, hc⟩ hm
  | _ => exact ⟨rfl, rfl⟩

/-- The step on a comparator test that matches. -/
theorem step_match (ha : AtEdge s) (hc : s.dacCall = none) (hst : s.st = 0x3#4) (hm : s.compS = true) :
    step s = .next (finishEdge (matchBranch s)) := by
  simp [step_rampCompare ha hc hst, hm]

/-- Every edge shifts the synchroniser by one flip-flop (R29). -/
theorem step_sync (ha : AtEdge s) (h : step s = .next t) : t.sync = (s.pins.compIn :: s.sync).dropLast := by
  obtain ⟨i, u, -, he, rfl⟩ := step_cases_atEdge ha h
  obtain ⟨v, hv, hsync, hi, hd, -⟩ := exec_next i s
  obtain rfl : u = v := by simpa using he.symm.trans hv
  simp [hsync, State.pins, pinsAt_congr hi hd]

/-- After its first step a run of edges is one edge shorter. -/
theorem RunsFor.step {n : Nat} (hr : RunsFor (n + 1) s) (h : step s = .next t) : RunsFor n t := by
  intro k hk
  rw [pinsAt_step h]
  exact hr (k + 1) (by omega)

/-- The four states whose `cnt` is loaded once, on entry. -/
abbrev delayedOnce (c : StCode) : Prop := c = 0x1#4 ∨ c = 0x2#4 ∨ c = 0x4#4 ∨ c = 0x7#4

theorem step_wait (ha : AtEdge s) (hc : s.dacCall = none) (hst : delayedOnce s.st) (h0 : s.cnt ≠ 0) :
    step s = .next (finishEdge (countDown s)) := by
  rcases hst with h | h | h | h
  · simp [step_sample ha hc h, h0]
  · simp [step_rampSettle ha hc h, h0]
  · simp [step_dacCs ha hc h, h0]
  · simp [step_dacSettle ha hc h, h0]

/-- When its delay is over, each of the four states goes on to the next code. -/
theorem step_delayOver (ha : AtEdge s) (hc : s.dacCall = none) (hst : delayedOnce s.st) (h0 : s.cnt = 0) :
    ∃ t, step s = .next t ∧ t.st = s.st + 1#4 := by
  rcases hst with h | h | h | h
  · exact ⟨_, step_sample ha hc h, by simp [h, h0]⟩
  · exact ⟨_, step_rampSettle ha hc h, by simp [h, h0]⟩
  · exact ⟨_, step_dacCs ha hc h, by simp [h, h0]⟩
  · exact ⟨_, step_dacSettle ha hc h, by simp [h, h0]⟩

/-- From `cnt` = m a delayed state waits m edges with its ports as they are, and the edge after them leaves it. -/
theorem delay_lasts (m : Nat) : ∀ {s : State}, delayedOnce s.st → s.dacCall = none → s.cnt = m → RunsFor (m + 1) s →
    (∀ k ≤ m, ∃ u, after k s = some u ∧ u.st = s.st ∧ u.cnt = m - k ∧ u.ports = s.ports) ∧
    ∃ t, after (m + 1) s = some t ∧ t.st = s.st + 1#4 := by
  induction m with
  | zero =>
    intro s hst hc h0 hr
    obtain ⟨t, ht, hn⟩ := step_delayOver (hr 0 (by omega)) hc hst h0
    refine ⟨fun k hk => ⟨s, ?_, rfl, by omega, rfl⟩, t, after_succ ht 0, hn⟩
    rw [Nat.le_zero.mp hk]; rfl
  | succ m ih =>
    intro s hst hc hm hr
    have hw := step_wait (hr 0 (by omega)) hc hst (by omega)
    obtain ⟨hrun, t, ht, hn⟩ := ih (s := finishEdge (countDown s)) hst rfl (by simp [hm]) (hr.step hw)
    refine ⟨fun k hk => ?_, t, (after_succ hw _).trans ht, hn⟩
    cases k with
    | zero => exact ⟨s, rfl, rfl, by omega, rfl⟩
    | succ k =>
      obtain ⟨u, hu, hust, hucnt, hup⟩ := hrun k (by omega)
      exact ⟨u, (after_succ hw k).trans hu, hust, by omega, hup⟩

end Sys2Proof.Machine
end

section
/-! The obligations of 10_state.md. -/

namespace Sys2Proof.Machine

/-- Settles O8: `rst_n` = 0 answers `holdReset`, whatever the state and the edge. -/
theorem resetValuesOfEveryRegister : Obligations.ResetValuesOfEveryRegister :=
  fun _ h => ⟨_, step_of_reset h, resetWith_atResetValues _ _ _⟩

/-- Settles O9. -/
theorem resetOfTheModelsOwnFields : Obligations.ResetOfTheModelsOwnFields :=
  ⟨fun _ h => ⟨_, step_of_reset h, resetWith_atResetValues _ _ _, rfl, rfl, rfl, rfl⟩,
    resetWith_atResetValues _ _ _, rfl, rfl, rfl, rfl⟩

/-- Settles O11: such an instant is `betweenEdges`. -/
theorem nothingChangesBetweenEdges : Obligations.NothingChangesBetweenEdges :=
  fun _ hr hc => step_of_noEdge hr hc

/-- Settles O50. -/
theorem invariantAtReset : Obligations.InvariantAtReset :=
  ⟨fun _ ins d hp => resetWith_inv hp ins d, resetWith_inv params_legal _ _⟩

/-- Settles O12: the new chain is `comp_in` before the old one, without its last flip-flop. -/
theorem synchroniserShiftsAtEveryEdge : Obligations.SynchroniserShiftsAtEveryEdge := by
  intro s t ha h
  rw [step_sync ha h]
  refine ⟨by simp, fun h0 => ?_, fun k h1 hk => ?_⟩
  · rw [List.getElem?_dropLast, if_pos (by simp; omega)]; rfl
  · obtain ⟨j, rfl⟩ := Nat.exists_eq_add_of_le' h1
    rw [List.getElem?_dropLast, if_pos (by simpa using hk)]; rfl

/-- Settles O26, by the branch that the step took. -/
theorem prevIsWrittenByAMatchOnly : Obligations.PrevIsWrittenByAMatchOnly := by
  intro s t ha hc h
  obtain ⟨u, hu, rfl⟩ := branch_of_step ha hc h
  exact hu.prev_eq

/-- Settles O27, by the branch that the step took. -/
theorem codeIsWrittenBySearchAndRestOnly : Obligations.CodeIsWrittenBySearchAndRestOnly := by
  intro s t ha hc hl h
  obtain ⟨u, hu, rfl⟩ := branch_of_step ha hc h
  exact ⟨hu.ladder_eq hl, hu.code_eq⟩

/-- Settles O42: a match, a falling edge before the last, and every other branch. -/
theorem shiftRegisterFollowsTheFallingEdges : Obligations.ShiftRegisterFollowsTheFallingEdges := by
  intro s t hs ha h
  obtain ⟨u, hu, rfl⟩ := branch_of_step ha hs.noCall h
  refine ⟨hu.mosi_head hs.mosi_head, fun ⟨hst, hm⟩ => ?_, fun hm => ⟨fun ⟨hk, hk', hb⟩ => ?_, hu.shift_frame hm⟩⟩
  · have e : finishEdge u = finishEdge (matchBranch s) := by simpa [h] using step_match ha hs.noCall hst hm
    rw [e]; exact ⟨rfl, rfl⟩
  · exact hu.shift_of_fall hs.legalCode hm hk hk' hb

/-- Settles O51: `step_inv` takes reset, the instants between edges, and each branch of the state rules. -/
theorem stepKeepsTheInvariant : Obligations.StepKeepsTheInvariant :=
  fun _ _ hs h => step_inv hs h

/-- Settles O52: the invariant at reset and at every later instant, which bounds `cnt` by its state's delay. -/
theorem reachableStatesMeetTheInvariants : Obligations.ReachableStatesMeetTheInvariants := by
  intro p ins d n hp
  obtain ⟨t, ht, hi, hpar⟩ := after_inv n (resetWith_inv hp ins d)
  refine ⟨t, ht, hi.ports, hi.legalCode, hi.cnt_le.trans ?_⟩
  have hb := cntBound_le t
  rwa [hpar] at hb

/-- Settles O53, by induction on the cycles to go. -/
theorem delayStatesLastExactly : Obligations.DelayStatesLastExactly := by
  intro s d hst hc h1 hcnt hr
  obtain ⟨m, rfl⟩ := Nat.exists_eq_add_of_le' h1
  obtain ⟨hrun, hend⟩ := delay_lasts m hst hc hcnt hr
  exact ⟨fun k hk => hrun k (by omega), hend⟩

end Sys2Proof.Machine
end

section
/-! SUPPORT. The synchroniser over a run of edges. -/

namespace Sys2Proof.Machine

variable {s t : State}

/-- Over `n` edges the chain keeps its length and each sample moves `n` flip-flops on (R29). -/
theorem after_sync (n : Nat) : ∀ {s : State}, RunsFor n s → after n s = some t →
    t.sync.length = s.sync.length ∧ ∀ k, k + n < s.sync.length → t.sync[k + n]? = s.sync[k]? := by
  induction n with
  | zero =>
    intro s _ h
    obtain rfl : s = t := by simpa using h
    exact ⟨rfl, fun _ _ => rfl⟩
  | succ n ih =>
    intro s hr h
    obtain ⟨v, hv, ht⟩ := after_succ_cases h
    obtain ⟨hlen, -, hshift⟩ := synchroniserShiftsAtEveryEdge s v (hr 0 n.succ_pos) hv
    obtain ⟨hlen', hmove⟩ := ih (hr.step hv) ht
    refine ⟨hlen'.trans hlen, fun k hk => ?_⟩
    calc t.sync[k + (n + 1)]?
      _ = t.sync[k + 1 + n]? := by rw [Nat.add_assoc, Nat.add_comm 1]
      _ = v.sync[k + 1]? := hmove (k + 1) (by omega)
      _ = s.sync[k]? := hshift (k + 1) (by omega) (by omega)

/-- An empty chain reads `comp_in` at the deciding edge itself (R140). -/
theorem compS_of_length_zero (h : s.sync.length = 0) : s.compS = s.pins.compIn := by
  rw [State.compS, List.length_eq_zero_iff.mp h]; rfl

/-- Any other chain reads its last flip-flop (R140). -/
theorem compS_of_last {m : Nat} {b : Bool} (hl : s.sync.length = m + 1) (hb : s.sync[m]? = some b) : s.compS = b := by
  rw [State.compS, List.getLastD_eq_getLast?, List.getLast?_eq_getElem?, hl, Nat.add_sub_cancel, hb]; rfl

end Sys2Proof.Machine
end

section
/-! The obligation of 20_memory.md. -/

namespace Sys2Proof.Machine

/-- Settles O13: the first edge puts `comp_in` into the first flip-flop, and the others move it to the last. -/
theorem comparatorReadIsNSyncEdgesOld : Obligations.ComparatorReadIsNSyncEdgesOld := by
  intro s t hlen hr h
  cases hn : s.params.nSync with
  | zero =>
    obtain rfl : s = t := by simpa [hn] using h
    exact compS_of_length_zero (hlen.trans hn)
  | succ m =>
    rw [hn] at hlen hr h
    obtain ⟨v, hv, ht⟩ := after_succ_cases h
    obtain ⟨hlen', hhead, -⟩ := synchroniserShiftsAtEveryEdge s v (hr 0 m.succ_pos) hv
    obtain ⟨hlen'', hmove⟩ := after_sync m (hr.step hv) ht
    have hlast : t.sync[m]? = v.sync[0]? := by simpa using hmove 0 (by omega)
    exact compS_of_last (by omega) (hlast.trans (hhead (by omega)))

end Sys2Proof.Machine
end

section
/-! SUPPORT. The two word formats: what the encoder, the decoder and the datapath's packing say of each other. -/

namespace Sys2Proof.Machine

/-! ## The DAC word's fields (R82) -/

theorem word_cmd (l : Level) : (word l).extractLsb' 12 4 = Config.cmdWrite := by
  rw [word_eq_append]
  exact BitVec.extractLsb'_append_eq_left

theorem word_level (l : Level) : (word l).extractLsb' 0 12 = l.extractLsb' 0 12 := by
  rw [word_eq_append]
  exact BitVec.extractLsb'_append_eq_right

/-- The encoder's DAC word is the datapath's. -/
theorem encode_dacWrite (l : Level) : encode (.dacWrite l) = .dac (word l) :=
  congrArg CodeWord.dac (word_eq_append l).symm

/-- A level that fits the LEVEL field is read back from it. -/
theorem level_of_field {l : Level} (h : l.toNat < 4096) : (l.extractLsb' 0 12).zeroExtend 16 = l := by
  apply BitVec.eq_of_toNat_eq
  simp [BitVec.extractLsb'_toNat]
  omega

/-- A DAC word with the write command is the packing of its own LEVEL field. -/
theorem word_of_field {d : DacWord} (h : d.extractLsb' 12 4 = Config.cmdWrite) :
    word ((d.extractLsb' 0 12).zeroExtend 16) = d := by
  have hl : ((d.extractLsb' 0 12).zeroExtend 16).extractLsb' 0 12 = d.extractLsb' 0 12 :=
    (BitVec.extractLsb'_setWidth_of_le (by decide)).trans BitVec.extractLsb'_eq_self
  rw [word_eq_append, hl]
  change Config.cmdWrite ++ d.extractLsb' 0 12 = d
  rw [← h]
  exact BitVec.extractLsb'_append_extractLsb'

/-! ## The DAC decoder -/

theorem decodeDac_word {l : Level} (h : l.toNat < 4096) : decodeDac (word l) = .ok (.dacWrite l) := by
  rw [decodeDac, if_pos (word_cmd l), word_level, level_of_field h]

/-- What the DAC decoder accepts: words with the write command, read as the level of their LEVEL field. -/
theorem decodeDac_eq_ok {d : DacWord} {i : Instr} (h : decodeDac d = .ok i) :
    ∃ l : Level, i = .dacWrite l ∧ l.toNat < 4096 ∧ word l = d := by
  unfold decodeDac at h
  split_ifs at h with hc
  refine ⟨_, (Except.ok.inj h).symm, ?_, word_of_field hc⟩
  simp [BitVec.extractLsb'_toNat]; omega

/-! ## The state-code decoder (R86) -/

theorem decodeFsm_illegalAB (x : BitVec 1) : decodeFsm (0b101#3 ++ x) = .illegalAB x := by
  revert x; decide

theorem decodeFsm_illegalCD (x : BitVec 1) : decodeFsm (0b110#3 ++ x) = .illegalCD x := by
  revert x; decide

/-- Every code is the encoding of the instruction it decodes to. -/
theorem encode_decodeFsm (c : StCode) : encode (decodeFsm c) = .fsm c := by
  revert c; decide

theorem decodeFsm_wellFormed (c : StCode) : (decodeFsm c).wellFormed = true := by
  revert c; decide

/-- R222: the five illegal codes decode to the rows of the illegal-state rule. -/
theorem exec_decodeFsm_illegal {c : StCode} (h : illegalCode c) (s : State) :
    exec (decodeFsm c) s = .next (illegalState s) := by
  have hc : c = 0xA#4 ∨ c = 0xB#4 ∨ c = 0xC#4 ∨ c = 0xD#4 ∨ c = 0xE#4 := by revert c; decide
  rcases hc with rfl | rfl | rfl | rfl | rfl <;> rfl

/-! ## Both formats -/

theorem decode_encode {i : Instr} (h : i.wellFormed = true) : decode (encode i) = .ok i := by
  cases i with
  | dacWrite l => rw [encode_dacWrite]; exact decodeDac_word (by simpa [Instr.wellFormed] using h)
  | illegalAB x => exact congrArg Except.ok (decodeFsm_illegalAB x)
  | illegalCD x => exact congrArg Except.ok (decodeFsm_illegalCD x)
  | _ => rfl

/-- The DAC word alone can be ill-formed, and it has no state code. -/
theorem wellFormed_of_encode_fsm {i : Instr} {c : StCode} (h : encode i = .fsm c) : i.wellFormed = true := by
  cases i with
  | dacWrite l => cases h
  | _ => rfl

/-- R86: a state code is the encoding of the one instruction that it decodes to. -/
theorem encode_eq_fsm_iff {i : Instr} {c : StCode} : encode i = .fsm c ↔ i = decodeFsm c := by
  constructor
  · intro h
    have hd := decode_encode (wellFormed_of_encode_fsm h)
    rw [h] at hd
    exact (Except.ok.inj hd).symm
  · rintro rfl
    exact encode_decodeFsm c

/-! ## Bytes (log 15) -/

/-- The bytes of a word decode as the word does. -/
theorem decodeBytes_bytes (w : CodeWord) : decodeBytes w.bytes = decode w := by
  cases w with
  | fsm c => revert c; decide
  | dac d => exact congrArg decodeDac BitVec.extractLsb'_append_extractLsb'

/-! ## A placed word (log 6, log 11) -/

theorem releaseReset_atEdge (s : State) : AtEdge (releaseReset s) := ⟨rfl, rfl⟩

theorem withFetchWord_fsm_atEdge (s : State) (c : StCode) : AtEdge (s.withFetchWord 8 c.toNat) := releaseReset_atEdge s

theorem withFetchWord_dac_atEdge (s : State) (w : DacWord) : AtEdge (s.withFetchWord 16 w.toNat) := releaseReset_atEdge s

theorem fetch_withFetchWord_fsm (s : State) (c : StCode) : fetch (s.withFetchWord 8 c.toNat) = decode (.fsm c) := by
  simp [fetch, State.withFetchWord, placeWord]

theorem fetch_withFetchWord_dac (s : State) (w : DacWord) : fetch (s.withFetchWord 16 w.toNat) = decode (.dac w) := by
  simp [fetch, State.withFetchWord, placeWord]

/-- What is fetched at an edge runs, and the edge is finished. -/
theorem step_runs_fetched {s : State} {i : Instr} (ha : AtEdge s) (hf : fetch s = .ok i) :
    ∃ u, exec i s = .next u ∧ step s = .next (finishEdge u) := by
  obtain ⟨u, hu, -⟩ := exec_next i s
  exact ⟨u, hu, step_of_fetch ha hf hu⟩

end Sys2Proof.Machine
end

section
/-! The obligations of 30_encoding.md on words and their meaning. -/

namespace Sys2Proof.Machine

/-- Settles O1: the decoder computes on the ten literal words. -/
theorem tableWordsDecode : Obligations.TableWordsDecode := by
  unfold Obligations.TableWordsDecode
  decide

/-- Settles O2: in the word's format row by row, and in bytes because a word's bytes decode as the word does. -/
theorem decodeInvertsEncode : Obligations.DecodeInvertsEncode :=
  fun i h => ⟨decode_encode h, (decodeBytes_bytes (encode i)).trans (decode_encode h)⟩

/-- Settles O3, format by format. -/
theorem encodeInvertsDecode : Obligations.EncodeInvertsDecode := by
  intro w i h
  cases w with
  | fsm c =>
    obtain rfl : decodeFsm c = i := Except.ok.inj h
    exact ⟨decodeFsm_wellFormed c, encode_decodeFsm c⟩
  | dac d =>
    obtain ⟨l, rfl, hl, rfl⟩ := decodeDac_eq_ok h
    exact ⟨decide_eq_true hl, encode_dacWrite l⟩

/-- Settles O4: the step runs what `st` decodes to, and a code encodes that instruction and no other. -/
theorem stateDecodeChoosesTheRule : Obligations.StateDecodeChoosesTheRule := by
  refine ⟨fun s ha hc => step_noCall ha hc, fun c => ⟨_, encode_decodeFsm c, fun _ h => encode_eq_fsm_iff.1 h⟩,
    encode_decodeFsm, rfl, rfl, rfl, rfl, rfl, rfl, rfl, rfl, rfl, rfl, rfl, fun c s hlo hhi => ?_⟩
  exact exec_decodeFsm_illegal ⟨hlo, hhi⟩ s

/-- Settles O5: the fields are those of the packed word, and the encoder's word is the same. -/
theorem dacWordHasCommandAndLevel : Obligations.DacWordHasCommandAndLevel :=
  ⟨fun l => ⟨rfl, word_eq_append l, word_cmd l, word_level l, encode_dacWrite l⟩, rfl, rfl⟩

/-- Settles O6: the placed word is fetched, and it decodes to the instruction it encodes. -/
theorem placedWordRunsNext : Obligations.PlacedWordRunsNext := by
  intro i s s' hi hp
  have hd := decode_encode hi
  cases hw : encode i with
  | fsm c =>
    rw [hw] at hp hd
    subst hp
    exact step_runs_fetched (withFetchWord_fsm_atEdge s c) ((fetch_withFetchWord_fsm s c).trans hd)
  | dac w =>
    rw [hw] at hp hd
    subst hp
    exact step_runs_fetched (withFetchWord_dac_atEdge s w) ((fetch_withFetchWord_dac s w).trans hd)

end Sys2Proof.Machine
end

section
/-! SUPPORT. What a receiver on the DAC wires sees of an edge, and of a run. -/

namespace Sys2Proof.Machine

variable {s t : State} {r q : Receiver} {before now : Ports}

/-! ## One instant (R197, D30) -/

/-- Wires that do not change show nothing. -/
@[simp] theorem Receiver.see_self (r : Receiver) (p : Ports) : r.see p p = r := by
  simp [Receiver.see]

/-- A rising SCLK in the window gives the bit on the wire. -/
theorem Receiver.see_rise (hb : before.dacCsN = false) (hn : now.dacCsN = false) (hk : before.dacSclk = false)
    (hk' : now.dacSclk = true) : r.see before now = { r with bits := r.bits ++ [now.dacMosi] } := by
  simp [Receiver.see, hb, hn, hk, hk']

/-- In the window nothing but a rising SCLK gives a bit. -/
theorem Receiver.see_fall (hb : before.dacCsN = false) (hn : now.dacCsN = false) (hk : now.dacSclk = false) :
    r.see before now = r := by
  simp [Receiver.see, hb, hn, hk]

/-- CS_n rising commits the frame. -/
theorem Receiver.see_deselect (hb : before.dacCsN = false) (hn : now.dacCsN = true) :
    r.see before now = { bits := [], frames := r.frames ++ [r.bits] } := by
  simp [Receiver.see, hb, hn]

/-! ## A run -/

theorem watch_succ (h : step s = .next t) (n : Nat) (r : Receiver) :
    watch (n + 1) s r = watch n t (r.see s.ports t.ports) := by
  simp [watch, h]

theorem watch_one (h : step s = .next t) (r : Receiver) : watch 1 s r = some (t, r.see s.ports t.ports) :=
  watch_succ h 0 r

/-- A watched run of one instant or more begins with a step. -/
theorem watch_succ_cases {n : Nat} {p : State × Receiver} (h : watch (n + 1) s r = some p) :
    ∃ v, step s = .next v ∧ watch n v (r.see s.ports v.ports) = some p := by
  unfold watch at h
  split at h
  · rename_i v hv; exact ⟨v, hv, h⟩
  · cases h
  · cases h

theorem watch_add (m n : Nat) : ∀ {s : State} {r : Receiver}, watch m s r = some (t, q) →
    watch (m + n) s r = watch n t q := by
  induction m with
  | zero =>
    intro s r h
    obtain ⟨rfl, rfl⟩ : s = t ∧ r = q := by simpa [watch] using h
    rw [Nat.zero_add]
  | succ m ih =>
    intro s r h
    obtain ⟨v, hv, h⟩ := watch_succ_cases h
    rw [Nat.add_right_comm, watch_succ hv, ih h]

/-- A watched run ends in the state that the run ends in. -/
theorem after_of_watch (n : Nat) : ∀ {s : State} {r : Receiver}, watch n s r = some (t, q) → after n s = some t := by
  induction n with
  | zero =>
    intro s r h
    obtain ⟨rfl, -⟩ : s = t ∧ r = q := by simpa [watch] using h
    rfl
  | succ n ih =>
    intro s r h
    obtain ⟨v, hv, h⟩ := watch_succ_cases h
    exact (after_succ hv n).trans (ih h)

theorem RunsFor.mono {m n : Nat} (hr : RunsFor n s) (h : m ≤ n) : RunsFor m s :=
  fun k hk => hr k (hk.trans_le h)

/-- What is left of a run of edges. -/
theorem RunsFor.drop {m n : Nat} (hr : RunsFor (m + n) s) (h : after m s = some t) : RunsFor n t := by
  intro k hk
  rw [pinsAt_after h]
  exact hr (m + k) (by omega)

/-! ## A delay -/

theorem shiftFrame_of_wait (h0 : s.cnt ≠ 0) : shiftFrame s = countDown s := if_pos h0

theorem shiftFrame_of_low (h0 : s.cnt = 0) (hk : s.sclk = false) : shiftFrame s = raiseSclk s := by
  simp [shiftFrame, h0, hk]

theorem shiftFrame_of_high (h0 : s.cnt = 0) (hk : s.sclk = true) :
    shiftFrame s = if s.bitcnt ≠ 15#4 then nextBit s else endFrame s := by
  simp [shiftFrame, h0, hk]

/-- Every state with a counter waits while it is not 0 (R26). -/
theorem step_delaying (ha : AtEdge s) (hc : s.dacCall = none) (hst : delaying s.st) (h0 : s.cnt ≠ 0) :
    step s = .next (finishEdge (countDown s)) := by
  rcases hst with h | h | h | h | h | h
  · exact step_wait ha hc (.inl h) h0
  · exact step_wait ha hc (.inr (.inl h)) h0
  · exact step_wait ha hc (.inr (.inr (.inl h))) h0
  · rw [step_dacShiftHi ha hc h, shiftFrame_of_wait h0]
  · rw [step_dacShiftLo ha hc h, shiftFrame_of_wait h0]
  · exact step_wait ha hc (.inr (.inr (.inr h))) h0

/-- From `cnt` = m a delaying state waits m edges, of which the wires show nothing: at the edge that ends the delay only
`cnt` and the environment's part of the state have changed. -/
theorem watch_delay (m : Nat) (r : Receiver) : ∀ {s : State}, delaying s.st → s.dacCall = none → s.cnt = m → RunsFor (m + 1) s →
    ∃ v, AtEdge v ∧
      v = { s with cnt := 0, sync := v.sync, inputs := v.inputs, drawIndex := v.drawIndex, dacCall := none } ∧
      watch (m + 1) s r = watch 1 v r := by
  induction m with
  | zero =>
    intro s _ hc h0 hr
    exact ⟨s, hr 0 Nat.one_pos, by rw [← h0, ← hc], rfl⟩
  | succ m ih =>
    intro s hst hc hm hr
    have hw := step_delaying (hr 0 (by omega)) hc hst (by omega)
    obtain ⟨v, hv, he, hrun⟩ := ih (s := finishEdge (countDown s)) hst rfl (by simp [hm]) (hr.step hw)
    refine ⟨v, hv, he, ?_⟩
    rw [watch_succ hw, ← hrun]
    exact congrArg (watch (m + 1) _) (Receiver.see_self r s.ports)

end Sys2Proof.Machine
end

section
/-! SUPPORT. The frame by its half periods of SCLK (44_dac_driver.md R190-R195): half periods 2i and 2i + 1 are the low and
the high half of frame bit i. -/

namespace Sys2Proof.Machine

variable {s t : State} {w : DacWord} {p : Nat}

/-- The state that sends half period `p`: DAC_CS the first, DAC_SHIFT_HI the others of bits 0 to 7, DAC_SHIFT_LO those of
bits 8 to 15. -/
def halfPeriodCode (p : Nat) : StCode := if p = 0 then 0x4#4 else if p < 16 then 0x5#4 else 0x6#4

/-- The block sends half period `p` of a frame of `w`; `cnt` holds how much of it is left. -/
structure HalfPeriod (w : DacWord) (p : Nat) (s : State) : Prop where
  st : s.st = halfPeriodCode p
  noCall : s.dacCall = none
  csN : s.csN = false
  sclk : s.sclk = decide (p % 2 = 1)
  bitcnt : s.bitcnt.toNat = p / 2
  sr : s.sr = w <<< (p / 2)
  mosi : s.mosi = s.sr.getLsbD 15

theorem halfPeriodCode_of_ne_zero (hp : p ≠ 0) : halfPeriodCode p = if p < 16 then 0x5#4 else 0x6#4 := if_neg hp

/-- A rising edge of SCLK after the first stays in the bit's state (R191). -/
theorem halfPeriodCode_high {i : Nat} (hi : i ≠ 0) : halfPeriodCode (2 * i + 1) = halfPeriodCode (2 * i) := by
  rw [halfPeriodCode_of_ne_zero (Nat.succ_ne_zero _), halfPeriodCode_of_ne_zero (by omega)]
  exact if_congr (by omega) rfl rfl

/-- A falling edge of SCLK goes to the state of the next bit (R191). -/
theorem halfPeriodCode_next (i : Nat) : halfPeriodCode (2 * i + 2) = if i + 1 ≤ 7 then 0x5#4 else 0x6#4 := by
  rw [halfPeriodCode_of_ne_zero (Nat.succ_ne_zero _)]
  exact if_congr (by omega) rfl rfl

theorem HalfPeriod.is_delaying (h : HalfPeriod w p s) : delaying s.st := by
  rw [h.st]; unfold halfPeriodCode
  split_ifs <;> simp [delaying]

/-- The bit on the wire (R195). -/
theorem HalfPeriod.mosi_eq (h : HalfPeriod w p s) (hp : p < 32) : s.mosi = w.getLsbD (15 - p / 2) := by
  rw [h.mosi, h.sr, BitVec.getLsbD_shiftLeft]
  simp
  omega

/-- A half period goes on whatever `cnt` and the environment are. -/
theorem HalfPeriod.goes_on (h : HalfPeriod w p s) (m : Nat) (chain : List Bool) (ins : List Inputs) (d : Nat) :
    HalfPeriod w p { s with cnt := m, sync := chain, inputs := ins, drawIndex := d, dacCall := none } :=
  { h with noCall := rfl }

/-- After the first half period a step is one of the shared pseudocode (R191, R192). -/
theorem HalfPeriod.step_shift (h : HalfPeriod w p s) (ha : AtEdge s) (hp : p ≠ 0) :
    step s = .next (finishEdge (shiftFrame s)) := by
  have hst := h.st.trans (halfPeriodCode_of_ne_zero hp)
  split_ifs at hst
  · exact step_dacShiftHi ha h.noCall hst
  · exact step_dacShiftLo ha h.noCall hst

/-- The end of a low half: SCLK rises. -/
theorem HalfPeriod.step_rise {i : Nat} (h : HalfPeriod w (2 * i) s) (ha : AtEdge s) (h0 : s.cnt = 0) :
    step s = .next (finishEdge { raiseSclk s with st := halfPeriodCode (2 * i + 1) }) := by
  by_cases hi : i = 0
  · subst hi
    simp [step_dacCs ha h.noCall h.st, h0, halfPeriodCode]
  · have hk : s.sclk = false := by simp [h.sclk]
    rw [h.step_shift ha (by omega), halfPeriodCode_high hi, ← h.st, shiftFrame_of_low h0 hk]
    rfl

/-- A rising edge of SCLK begins the bit's high half. -/
theorem HalfPeriod.high_half {i : Nat} (h : HalfPeriod w (2 * i) s) :
    HalfPeriod w (2 * i + 1) (finishEdge { raiseSclk s with st := halfPeriodCode (2 * i + 1) }) where
  st := rfl
  noCall := rfl
  csN := h.csN
  sclk := by simp
  bitcnt := h.bitcnt.trans (by omega)
  sr := h.sr.trans (by congr 1; omega)
  mosi := h.mosi

/-- The end of a high half: the next bit, or after the last one the end of the frame. -/
theorem HalfPeriod.step_fall {i : Nat} (h : HalfPeriod w (2 * i + 1) s) (ha : AtEdge s) (h0 : s.cnt = 0) :
    step s = .next (finishEdge (if s.bitcnt ≠ 15#4 then nextBit s else endFrame s)) := by
  have hk : s.sclk = true := by simp [h.sclk]
  rw [h.step_shift ha (Nat.succ_ne_zero _), shiftFrame_of_high h0 hk]

/-- A falling edge of SCLK that is not the last begins the next bit's low half. -/
theorem HalfPeriod.low_half {i : Nat} (h : HalfPeriod w (2 * i + 1) s) (hb : s.bitcnt ≠ 15#4) :
    HalfPeriod w (2 * i + 2) (finishEdge (nextBit s)) where
  st := by
    have hi : s.bitcnt.toNat = i := h.bitcnt.trans (by omega)
    rw [halfPeriodCode_next, ← hi]; rfl
  noCall := rfl
  csN := h.csN
  sclk := by simp
  bitcnt := by
    have hi := h.bitcnt
    exact (nextBit_bitcnt_toNat hb).trans (by omega)
  sr := by
    calc s.sr <<< 1
      _ = w <<< ((2 * i + 1) / 2 + 1) := by rw [h.sr, BitVec.shiftLeft_add]
      _ = w <<< ((2 * i + 2) / 2) := by congr 1; omega
  mosi := by simp

/-! ## The receiver over the frame -/

/-- What a receiver that held `r` at the start of a frame of `w` holds when half period `p` has begun: one more bit for each
rising edge of SCLK. -/
def Receiver.upTo (r : Receiver) (w : DacWord) (p : Nat) : Receiver :=
  { r with bits := r.bits ++ (frameOf w).take ((p + 1) / 2) }

@[simp] theorem Receiver.upTo_zero (r : Receiver) (w : DacWord) : r.upTo w 0 = r := by
  simp [Receiver.upTo]

theorem frameOf_getElem? (w : DacWord) {i : Nat} (hi : i < 16) : (frameOf w)[i]? = some (w.getLsbD (15 - i)) := by
  simp [frameOf, hi]

theorem frameOf_length (w : DacWord) : (frameOf w).length = 16 := by simp [frameOf]

theorem Receiver.upTo_rise (r : Receiver) (w : DacWord) {i : Nat} (hi : i < 16) :
    r.upTo w (2 * i + 1) = { r.upTo w (2 * i) with bits := (r.upTo w (2 * i)).bits ++ [w.getLsbD (15 - i)] } := by
  have h1 : (2 * i + 1 + 1) / 2 = i + 1 := by omega
  have h0 : (2 * i + 1) / 2 = i := by omega
  simp [Receiver.upTo, h1, h0, List.take_add_one, frameOf_getElem? w hi]

theorem Receiver.upTo_fall (r : Receiver) (w : DacWord) (i : Nat) : r.upTo w (2 * i + 2) = r.upTo w (2 * i + 1) := by
  have h : (2 * i + 2 + 1) / 2 = (2 * i + 1 + 1) / 2 := by omega
  simp [Receiver.upTo, h]

/-- The last half period has shown the whole frame. -/
theorem Receiver.upTo_last (r : Receiver) (w : DacWord) : r.upTo w 31 = { r with bits := r.bits ++ frameOf w } := by
  rw [Receiver.upTo, List.take_of_length_le (frameOf_length w).le]

/-- The edge that ends a half period before the last. -/
theorem HalfPeriod.watch_edge (h : HalfPeriod w p s) (ha : AtEdge s) (h0 : s.cnt = 0) (hp : p < 31) (r : Receiver) :
    ∃ t, watch 1 s (r.upTo w p) = some (t, r.upTo w (p + 1)) ∧ HalfPeriod w (p + 1) t ∧
      t.cnt = t.params.sclkHalf - 1 ∧ t.params = s.params := by
  obtain ⟨i, rfl | rfl⟩ := p.even_or_odd'
  · have hk : s.sclk = false := by simp [h.sclk]
    have hm : s.mosi = w.getLsbD (15 - i) := by simpa using h.mosi_eq (by omega)
    refine ⟨_, ?_, h.high_half, rfl, rfl⟩
    rw [watch_one (h.step_rise ha h0), Receiver.upTo_rise r w (by omega), ← hm,
      Receiver.see_rise h.csN h.csN hk rfl]
    rfl
  · have hb : s.bitcnt ≠ 15#4 := by
      intro e
      have hi : 15 = (2 * i + 1) / 2 := (congrArg BitVec.toNat e).symm.trans h.bitcnt
      omega
    have hs := h.step_fall ha h0
    rw [if_pos hb] at hs
    refine ⟨_, ?_, h.low_half hb, rfl, rfl⟩
    rw [watch_one hs, Receiver.upTo_fall, Receiver.see_fall h.csN h.csN rfl]

/-- A half period from its first cycle: the wires show nothing until the edge that ends it. -/
theorem HalfPeriod.watch_wait (h : HalfPeriod w p s) (hh : 1 ≤ s.params.sclkHalf) (hc : s.cnt = s.params.sclkHalf - 1)
    (hr : RunsFor s.params.sclkHalf s) (r : Receiver) :
    ∃ v, AtEdge v ∧ HalfPeriod w p v ∧ v.cnt = 0 ∧ v.params = s.params ∧ watch s.params.sclkHalf s r = watch 1 v r := by
  obtain ⟨m, hm⟩ := Nat.exists_eq_add_of_le' hh
  rw [hm] at hr ⊢
  obtain ⟨v, ha, hv, hw⟩ := watch_delay m r h.is_delaying h.noCall (by omega) hr
  exact ⟨v, ha, by rw [hv]; exact h.goes_on 0 _ _ _, by rw [hv], by rw [hv], hw⟩

/-- A whole half period before the last. -/
theorem HalfPeriod.watch_next (h : HalfPeriod w p s) (hh : 1 ≤ s.params.sclkHalf) (hc : s.cnt = s.params.sclkHalf - 1)
    (hp : p < 31) (hr : RunsFor s.params.sclkHalf s) (r : Receiver) :
    ∃ t, watch s.params.sclkHalf s (r.upTo w p) = some (t, r.upTo w (p + 1)) ∧ HalfPeriod w (p + 1) t ∧
      t.cnt = t.params.sclkHalf - 1 ∧ t.params = s.params := by
  obtain ⟨v, ha, hv, h0, hparv, hw⟩ := h.watch_wait hh hc hr (r.upTo w p)
  obtain ⟨t, ht, hpt, hct, hpart⟩ := hv.watch_edge ha h0 hp r
  exact ⟨t, hw.trans ht, hpt, hct, hpart.trans hparv⟩

/-- From the first cycle of a frame to the first cycle of half period `p`. -/
theorem HalfPeriod.watch_upTo (h : HalfPeriod w 0 s) (hh : 1 ≤ s.params.sclkHalf) (hc : s.cnt = s.params.sclkHalf - 1)
    (r : Receiver) : ∀ p ≤ 31, RunsFor (p * s.params.sclkHalf) s →
      ∃ t, watch (p * s.params.sclkHalf) s r = some (t, r.upTo w p) ∧ HalfPeriod w p t ∧
        t.cnt = t.params.sclkHalf - 1 ∧ t.params = s.params := by
  intro p
  induction p with
  | zero => exact fun _ _ => ⟨s, by simp [watch], h, hc, rfl⟩
  | succ p ih =>
    intro hp hr
    rw [Nat.succ_mul] at hr ⊢
    obtain ⟨v, hv, hpv, hcv, hparv⟩ := ih (by omega) (hr.mono (by omega))
    have hrv := hr.drop (after_of_watch _ hv)
    rw [← hparv] at hrv hh
    obtain ⟨t, ht, hpt, hct, hpart⟩ := hpv.watch_next hh hcv (by omega) hrv r
    refine ⟨t, ?_, hpt, hct, hpart.trans hparv⟩
    rw [watch_add _ _ hv, ← hparv, ht]

/-! ## The end of the frame -/

/-- The last half period ends in DAC_SETTLE, with nothing more on the wires (R191). -/
theorem HalfPeriod.watch_last (h : HalfPeriod w 31 s) (hh : 1 ≤ s.params.sclkHalf) (hc : s.cnt = s.params.sclkHalf - 1)
    (hr : RunsFor s.params.sclkHalf s) (r : Receiver) :
    ∃ t, watch s.params.sclkHalf s r = some (t, r) ∧ t.st = 0x7#4 ∧ t.dacCall = none ∧ t.csN = false ∧
      t.cnt = t.params.tDacSettle - 1 ∧ t.params = s.params := by
  obtain ⟨v, ha, hv, h0, hpar, hw⟩ := h.watch_wait hh hc hr r
  have hb : v.bitcnt = 15#4 := BitVec.eq_of_toNat_eq hv.bitcnt
  have hs := hv.step_fall (i := 15) ha h0
  rw [if_neg (not_not.2 hb)] at hs
  refine ⟨finishEdge (endFrame v), ?_, rfl, rfl, hv.csN, rfl, hpar⟩
  rw [hw, watch_one hs, Receiver.see_fall hv.csN hv.csN rfl]

/-- DAC_SETTLE ends with CS_n rising, which commits the frame (R194, R197). -/
theorem watch_settle (hst : s.st = 0x7#4) (hcall : s.dacCall = none) (hcs : s.csN = false)
    (hd : 1 ≤ s.params.tDacSettle) (hc : s.cnt = s.params.tDacSettle - 1) (hr : RunsFor s.params.tDacSettle s) (r : Receiver) :
    ∃ t, watch s.params.tDacSettle s r = some (t, { bits := [], frames := r.frames ++ [r.bits] }) ∧ t.st = 0x8#4 ∧
      t.csN = true := by
  obtain ⟨m, hm⟩ := Nat.exists_eq_add_of_le' hd
  rw [hm] at hr ⊢
  obtain ⟨v, ha, hv, hw⟩ := watch_delay m r (by simp [hst, delaying]) hcall (by omega) hr
  have hs := step_dacSettle ha (by rw [hv]) (by rw [hv]; exact hst)
  rw [if_neg (by rw [hv]; simp)] at hs
  refine ⟨finishEdge { v with csN := true, st := stDacDone }, ?_, rfl, rfl⟩
  rw [hw, watch_one hs, Receiver.see_deselect (by rw [hv]; exact hcs) rfl]

/-- R195, R197: a whole frame from its first cycle. Thirty-one half periods show the sixteen bits, the last one shows nothing
more, and the end of DAC_SETTLE commits them. -/
theorem HalfPeriod.watch_frame (h : HalfPeriod w 0 s) (hl : s.params.legal) (hc : s.cnt = s.params.sclkHalf - 1)
    (hr : RunsFor (32 * s.params.sclkHalf + s.params.tDacSettle) s) (r : Receiver) :
    ∃ t, watch (32 * s.params.sclkHalf + s.params.tDacSettle) s r =
        some (t, { bits := [], frames := r.frames ++ [r.bits ++ frameOf w] }) ∧ t.st = 0x8#4 ∧ t.csN = true := by
  obtain ⟨-, -, -, hd, hh⟩ := hl
  have hn : 32 * s.params.sclkHalf + s.params.tDacSettle =
      31 * s.params.sclkHalf + (s.params.sclkHalf + s.params.tDacSettle) := by omega
  rw [hn] at hr ⊢
  obtain ⟨u, hu, hpu, hcu, hparu⟩ := h.watch_upTo hh hc r 31 le_rfl (hr.mono (by omega))
  have hru := hr.drop (after_of_watch _ hu)
  rw [← hparu] at hru hh hd
  obtain ⟨v, hv, hstv, hcallv, hcsv, hcv, hparv⟩ := hpu.watch_last hh hcu (hru.mono (by omega)) (r.upTo w 31)
  have hrv := hru.drop (after_of_watch _ hv)
  rw [← hparv] at hrv hd
  obtain ⟨t, ht, hstt, hcst⟩ := watch_settle hstv hcallv hcsv hd hcv hrv (r.upTo w 31)
  refine ⟨t, ?_, hstt, hcst⟩
  rw [watch_add _ _ hu, ← hparu, watch_add _ _ hv, ← hparv, ht, Receiver.upTo_last]

end Sys2Proof.Machine
end

section
/-! The obligation of 30_encoding.md on the frame. -/

namespace Sys2Proof.Machine

/-- Settles O45: the first cycle of DAC_CS is the first of half period 0 of the frame that `sr` holds. -/
theorem theDacStatesSendTheShiftRegister : Obligations.TheDacStatesSendTheShiftRegister := by
  intro s r n hl hcall hst hcnt hb hcs hk hm hbits hn hr
  subst hn
  have h0 : HalfPeriod s.sr 0 s :=
    { st := hst, noCall := hcall, csN := hcs, sclk := hk, bitcnt := by rw [hb]; rfl, sr := by simp, mosi := hm }
  simpa [hbits] using h0.watch_frame hl hcnt hr r

end Sys2Proof.Machine
end

section
/-! SUPPORT. What the control loop's statements need beside the branches: the fetch with a placed word, the end of an edge
said of the state before it, INIT, the loop's codes, a step under other inputs, and the successors of the shift states. -/

namespace Sys2Proof.Machine

variable {s t u : State} {i : Instr}

/-! ## The fetch -/

theorem fetch_of_call {w : DacWord} (h : s.dacCall = some w) : fetch s = decode (.dac w) := by
  simp [fetch, h]

/-- The write command is all that a placed word needs to be fetched (R87). -/
theorem fetch_answers (h : ∀ w ∈ s.dacCall, w.extractLsb' 12 4 = Config.cmdWrite) : ∃ i, fetch s = .ok i := by
  cases hc : s.dacCall with
  | none => exact ⟨_, fetch_of_noCall hc⟩
  | some w => exact ⟨_, (fetch_of_call hc).trans (if_pos (h w hc))⟩

/-- INIT is fetched from `st` alone. -/
theorem st_of_fetch_init (h : fetch s = .ok .init) : s.st = 0x0#4 := by
  cases hc : s.dacCall with
  | none =>
    have hd := Except.ok.inj ((fetch_of_noCall hc).symm.trans h)
    exact (CodeWord.fsm.inj (encode_eq_fsm_iff.2 hd.symm)).symm
  | some w =>
    obtain ⟨l, hl, -⟩ := decodeDac_eq_ok ((fetch_of_call hc).symm.trans h)
    cases hl

/-- An instant is in reset, between two edges, or an edge out of reset. -/
theorem instant_cases (s : State) :
    s.pins.rstN = false ∨ (s.pins.rstN = true ∧ s.pins.clkRises = false) ∨ AtEdge s := by
  cases hr : s.pins.rstN <;> cases hk : s.pins.clkRises <;> simp [AtEdge, hr, hk]

/-- A step answers where its fetch does. -/
theorem step_answers_of_fetch (hf : fetch s = .ok i) : ∃ t, step s = .next t := by
  obtain hr | ⟨hr, hk⟩ | ha := instant_cases s
  · exact ⟨_, step_of_reset hr⟩
  · exact ⟨_, step_of_noEdge hr hk⟩
  · obtain ⟨u, -, h⟩ := step_runs_fetched ha hf
    exact ⟨_, h⟩

/-! ## The end of an edge -/

/-- What every edge does beside its instruction, said of the state before the edge: the instruction has not touched it. -/
theorem finishEdge_of_exec (h : exec i s = .next u) :
    finishEdge u = { u with sync := (s.pins.compIn :: s.sync).dropLast, inputs := s.inputs.tail,
                            drawIndex := s.drawIndex + 1, dacCall := none } := by
  obtain ⟨v, hv, hsync, hi, hd, -⟩ := exec_next i s
  obtain rfl : u = v := by simpa using h.symm.trans hv
  simp [finishEdge, hsync, hi, hd, State.pins, pinsAt_congr hi hd]

/-- An edge whose outcome is known says which state it leads to. -/
theorem st_of_step (h : step s = .next t) (hu : step s = .next (finishEdge u)) : t.st = u.st := by
  obtain rfl : t = finishEdge u := by simpa using h.symm.trans hu
  rfl

/-! ## INIT (R100) -/

theorem exec_init_waiting (hi : s.pins.initDone = false) : exec .init s = .next { s with st := stInit } := by
  simp [exec, execInit, hi]

theorem exec_init_calibrated (hi : s.pins.initDone = true) (hv : s.pins.calValid = true) :
    exec .init s = .next (enterSample s) := by
  simp [exec, execInit, hi, hv]

theorem exec_init_uncalibrated (hi : s.pins.initDone = true) (hv : s.pins.calValid = false) :
    exec .init s = .next (raiseTrap s) := by
  simp [exec, execInit, hi, hv]

/-- In INIT without a placed word, INIT is what an edge runs. -/
theorem fetch_init (hc : s.dacCall = none) (hst : s.st = 0x0#4) : fetch s = .ok .init := by
  rw [fetch_of_noCall hc, hst]; rfl

/-- An edge before `init_done` changes no register but the synchroniser. -/
theorem step_init_waiting (ha : AtEdge s) (hc : s.dacCall = none) (hst : s.st = 0x0#4) (hi : s.pins.initDone = false) :
    step s = .next (finishEdge s) := by
  have e : { s with st := stInit } = s := by rw [stInit_eq, ← hst]
  exact step_of_fetch ha (fetch_init hc hst) ((exec_init_waiting hi).trans (by rw [e]))

/-! ## The codes of the loop (R104) -/

/-- The codes of the control loop, SAMPLE to RAMP_REST. -/
abbrev loopCode (c : StCode) : Prop := 0x1 ≤ c.toNat ∧ c.toNat ≤ 0x9

/-- From a state of the loop every branch leads to one of the loop. -/
theorem Branch.keeps_loop (h : Branch s u) (hl : loopCode s.st) : loopCode u.st := by
  cases h with
  | stay hst => obtain ⟨hst, -⟩ | hst := hst <;> simp [loopCode, hst] at hl
  | calInvalid hst _ _ => simp [loopCode, hst] at hl
  | illegal hst => exact absurd hst.1 (by omega)
  | wait _ _ | rise _ _ _ => exact hl
  | _ => simp [loopCode]

/-- TRAP is entered from INIT without a valid calibration and from an illegal code. -/
theorem Branch.trap_entry (h : Branch s u) (hu : u.st = 0xF#4) (hs : s.st ≠ 0xF#4) :
    (s.st = 0x0#4 ∧ s.pins.initDone = true ∧ s.pins.calValid = false) ∨ illegalCode s.st := by
  cases h with
  | calInvalid hst hi hv => exact .inl ⟨hst, hi, hv⟩
  | illegal hst => exact .inr hst
  | stay _ | wait _ _ | rise _ _ _ => exact absurd hu hs
  | _ => simp at hu

/-- No branch leads back to INIT. -/
theorem Branch.not_init_entry (h : Branch s u) (hs : s.st ≠ 0x0#4) : u.st ≠ 0x0#4 := by
  cases h with
  | stay _ | wait _ _ | rise _ _ _ => exact hs
  | _ => simp

/-! ## Other inputs at the same edge (R103) -/

/-- An instruction other than INIT reads no input but `comp_in`. -/
theorem exec_with_inputs (hi : i ≠ .init) {ins : List Inputs}
    (hp : { s with inputs := ins }.pins.compIn = s.pins.compIn) (h : exec i s = .next u) :
    exec i { s with inputs := ins } = .next { u with inputs := ins } := by
  cases i <;> obtain rfl := Host.Outcome.next.inj h <;> refine congrArg Host.Outcome.next ?_
  case init => exact absurd rfl hi
  case rampCompare =>
    have hm : matchFlag { s with inputs := ins } = matchFlag s := by simp only [matchFlag, State.compS, hp]
    have hl : lastFlag { s with inputs := ins } = lastFlag s := rfl
    rw [hm, hl]
    split_ifs <;> rfl
  case sample | rampSettle | dacCs | dacSettle => split_ifs <;> rfl
  case dacShiftHi | dacShiftLo => unfold shiftFrame; split_ifs <;> rfl
  all_goals rfl

/-- Where INIT is not fetched, a step reads `clk`, `rst_n` and `comp_in` of its instant's inputs and no other. -/
theorem step_with_inputs (hf : fetch s ≠ .ok .init) {ins : List Inputs} (ht : ins.tail = s.inputs.tail)
    (hr : { s with inputs := ins }.pins.rstN = s.pins.rstN)
    (hk : { s with inputs := ins }.pins.clkRises = s.pins.clkRises)
    (hp : { s with inputs := ins }.pins.compIn = s.pins.compIn) : step { s with inputs := ins } = step s := by
  obtain h0 | ⟨h1, h0⟩ | ha := instant_cases s
  · rw [step_of_reset h0, step_of_reset (hr.trans h0)]
    simp only [holdReset, ht]
  · rw [step_of_noEdge h1 h0, step_of_noEdge (hr.trans h1) (hk.trans h0)]
    simp only [betweenEdges, ht]
  · have ha' : AtEdge { s with inputs := ins } := ⟨hk.trans ha.1, hr.trans ha.2⟩
    cases hi : fetch s with
    | error why => rw [step_of_rejected ha hi, step_of_rejected ha' hi]
    | ok i =>
      obtain ⟨u, hu, -⟩ := exec_next i s
      have hu' := exec_with_inputs (fun e => hf (e ▸ hi)) hp hu
      rw [step_of_fetch ha hi hu, step_of_fetch ha' hi hu', finishEdge_of_exec hu, finishEdge_of_exec hu', hp, ht]

/-! ## The shift states (R191, R192) -/

/-- The shift states go on together, but for a falling edge of SCLK. -/
theorem shiftFrame_st (s : State) : (shiftFrame s).st =
    if s.cnt = 0 ∧ s.sclk = true then (if s.bitcnt = 15#4 then 0x7#4 else if s.bitcnt.toNat + 1 ≤ 7 then 0x5#4 else 0x6#4)
    else s.st := by
  rcases shiftFrame_cases s with ⟨hc, e⟩ | ⟨hc, hk, e⟩ | ⟨hc, hk, hb, e⟩ | ⟨hc, hk, hb, e⟩ <;> rw [e]
  · simp [hc]
  · simp [hk]
  · simp [hc, hk, hb]
  · simp [hc, hk, hb]

/-- DAC_SHIFT_HI is left at the falling edge after frame bit 7. -/
theorem shiftFrame_st_hi (hst : s.st = 0x5#4) (hb : s.bitcnt.toNat ≤ 7) :
    (shiftFrame s).st = if s.cnt = 0 ∧ s.sclk = true ∧ s.bitcnt = 7#4 then 0x6#4 else 0x5#4 := by
  have h15 : s.bitcnt ≠ 15#4 := by rintro e; simp [e] at hb
  have h7 : s.bitcnt.toNat + 1 ≤ 7 ↔ s.bitcnt ≠ 7#4 := by bv_omega
  rw [shiftFrame_st, hst, if_neg h15]
  split_ifs <;> tauto

/-- DAC_SHIFT_LO is left at the falling edge after frame bit 15. -/
theorem shiftFrame_st_lo (hst : s.st = 0x6#4) (hb : 8 ≤ s.bitcnt.toNat) :
    (shiftFrame s).st = if s.cnt = 0 ∧ s.sclk = true ∧ s.bitcnt = 15#4 then 0x7#4 else 0x6#4 := by
  rw [shiftFrame_st, hst, if_neg (show ¬s.bitcnt.toNat + 1 ≤ 7 by omega)]
  split_ifs <;> tauto

end Sys2Proof.Machine
end

section
/-! The obligations of 40_control_loop.md. -/

namespace Sys2Proof.Machine

/-- Settles O16. -/
theorem initWaitsThenChecksCalibration : Obligations.InitWaitsThenChecksCalibration :=
  fun _ => ⟨exec_init_waiting, exec_init_calibrated, exec_init_uncalibrated⟩

/-- Settles O7: the word is the one that is fetched. -/
theorem stepRunsTheDecodedInstruction : Obligations.StepRunsTheDecodedInstruction := by
  intro s w ha hw
  have hf : fetch s = decode w := by
    subst hw
    cases hc : s.dacCall with
    | none => simp [fetch_of_noCall hc, decode]
    | some d => simp [fetch_of_call hc]
  refine ⟨fun i hi => ?_, fun why hy => step_of_rejected ha (hf.trans hy)⟩
  obtain ⟨u, hu, h⟩ := step_runs_fetched ha (hf.trans hi)
  exact ⟨u, hu, by rw [h, finishEdge_of_exec hu]⟩

/-- Settles O14: a placed word with the write command is fetched, as every state code is. -/
theorem stepAlwaysAnswers : Obligations.StepAlwaysAnswers := by
  intro s h
  obtain ⟨i, hf⟩ := fetch_answers h
  obtain ⟨t, ht⟩ := step_answers_of_fetch hf
  obtain ⟨-, -, hp, -⟩ := step_environment ht
  exact ⟨t, ht, hp⟩

/-- Settles O15: reset leads to INIT, an instant between edges keeps `st`, and an edge takes a branch. -/
theorem onlyResetOrTrapStopsTheLoop : Obligations.OnlyResetOrTrapStopsTheLoop := by
  intro s t hc h
  obtain ⟨hr, rfl⟩ | ⟨-, -, rfl⟩ | ⟨ha, -⟩ := step_cases h
  · exact ⟨by simp [hr], by simp, by simp [hr], fun _ _ => hr⟩
  · exact ⟨fun _ h1 h9 => ⟨h1, h9⟩, fun e hn => absurd e hn, fun e _ => e, fun e hn => absurd e hn⟩
  · obtain ⟨u, hu, rfl⟩ := branch_of_step ha hc h
    exact ⟨fun _ h1 h9 => hu.keeps_loop ⟨h1, h9⟩, fun e hn => ⟨ha, hu.trap_entry e hn⟩,
      fun hst _ => st_of_step h (step_trap ha hc hst), fun e hn => absurd e (hu.not_init_entry hn)⟩

/-- Settles O17: outside INIT a step reads only inputs that are the same. -/
theorem startInputsAreReadInInitOnly : Obligations.StartInputsAreReadInInitOnly := by
  intro s p later a b hs hst
  have hp : s.pins = p := by simp [State.pins, State.pinsAt, hs]
  subst hp
  exact step_with_inputs (fun hf => hst (st_of_fetch_init hf)) (by rw [hs]; rfl) rfl rfl rfl

/-- Settles O18, by induction on the edges before `init_done`. -/
theorem initLastsUntilInitDone : Obligations.InitLastsUntilInitDone := by
  intro s k
  induction k generalizing s with
  | zero =>
    intro hst hc hr _ hi
    refine ⟨fun j hj => ⟨s, by rw [Nat.le_zero.mp hj]; rfl, hst, rfl⟩, ?_⟩
    have ha : AtEdge s := hr 0 Nat.one_pos
    cases hv : s.pins.calValid with
    | true =>
      have h := step_of_fetch ha (fetch_init hc hst) (exec_init_calibrated hi hv)
      exact ⟨_, after_succ h 0, fun _ => ⟨rfl, rfl, rfl⟩, fun hf => absurd (hv.symm.trans hf) (by decide)⟩
    | false =>
      have h := step_of_fetch ha (fetch_init hc hst) (exec_init_uncalibrated hi hv)
      exact ⟨_, after_succ h 0, fun ht => absurd (hv.symm.trans ht) (by decide), fun _ => ⟨rfl, rfl⟩⟩
  | succ k ih =>
    intro hst hc hr hw hi
    have h := step_init_waiting (hr 0 k.succ.succ_pos) hc hst (hw 0 k.succ_pos)
    have hpins := pinsAt_step h
    obtain ⟨hrun, t, ht, hend⟩ := ih (finishEdge s) hst rfl (hr.step h)
      (fun j hj => by rw [hpins]; exact hw (j + 1) (by omega)) (by rw [hpins]; exact hi)
    rw [hpins] at hend
    refine ⟨fun j hj => ?_, t, (after_succ h _).trans ht, hend⟩
    cases j with
    | zero => exact ⟨s, rfl, hst, rfl⟩
    | succ j =>
      obtain ⟨u, hu, hust, hup⟩ := hrun j (by omega)
      exact ⟨u, (after_succ h j).trans hu, hust, hup⟩

/-- Settles O49: each state's edge says what it does to `st`. -/
theorem stateGraph : Obligations.StateGraph := by
  intro s t ha hc hhi hlo h
  refine ⟨fun hst => (st_of_step h (step_init ha hc hst)).trans ?_,
    fun hst => (st_of_step h (step_sample ha hc hst)).trans ?_,
    fun hst => (st_of_step h (step_rampSettle ha hc hst)).trans ?_,
    fun hst => (st_of_step h (step_rampCompare ha hc hst)).trans ?_,
    fun hst => (st_of_step h (step_dacCs ha hc hst)).trans ?_,
    fun hst => (st_of_step h (step_dacShiftHi ha hc hst)).trans (shiftFrame_st_hi hst (hhi hst)),
    fun hst => (st_of_step h (step_dacShiftLo ha hc hst)).trans (shiftFrame_st_lo hst (hlo hst)),
    fun hst => (st_of_step h (step_dacSettle ha hc hst)).trans ?_,
    fun hst => st_of_step h (step_dacDone ha hc hst),
    fun hst => st_of_step h (step_rampRest ha hc hst), fun hst => ?_⟩
  · simp [apply_ite State.st]
  · simp [apply_ite State.st, hst]
  · simp [apply_ite State.st, hst]
  · simp [apply_ite State.st]
  · simp [apply_ite State.st, hst]
  · simp [apply_ite State.st, hst]
  · obtain he | hi : s.st = 0xF#4 ∨ illegalCode s.st := by bv_omega
    · exact st_of_step h (step_trap ha hc he)
    · exact st_of_step h (step_illegal ha hc hi)

end Sys2Proof.Machine
end

section
/-! SUPPORT. SAMPLE by the two halves of its rule (R120), and the branches that lead into a search and into a sample. -/

namespace Sys2Proof.Machine

variable {s u : State}

/-- The dwell is not over. -/
theorem exec_sample_dwelling (hc : s.cnt ≠ 0) : exec .sample s = .next (countDown s) := by
  simp [exec, execSample, hc]

/-- The exit edge (R121). -/
theorem exec_sample_over (hc : s.cnt = 0) : exec .sample s = .next { startStep s.code s with gate := false } := by
  simp [exec, execSample, hc]

/-- RAMP_SETTLE is entered at the end of SAMPLE and by the next step of a search. -/
theorem Branch.rampSettle_entry (h : Branch s u) (hu : u.st = 0x2#4) :
    s.st = 0x2#4 ∨ s.st = 0x3#4 ∨ (s.st = 0x1#4 ∧ s.cnt = 0) := by
  cases h with
  | stay _ | wait _ _ | rise _ _ _ => exact .inl hu
  | stepped hst _ _ => exact .inr (.inl hst)
  | sampleEnds hst hc => exact .inr (.inr ⟨hst, hc⟩)
  | _ => simp at hu

/-- SAMPLE goes on by counting down, and is entered with the whole dwell. -/
theorem Branch.sample_entry (h : Branch s u) (hu : u.st = 0x1#4) :
    (s.st = 0x1#4 ∧ s.cnt ≠ 0 ∧ u.cnt = s.cnt - 1) ∨
    ((s.st = 0x0#4 ∨ s.st = 0x9#4) ∧ u.cnt = s.params.tDwell - 1) := by
  cases h with
  | wait _ hc => exact .inl ⟨hu, hc, rfl⟩
  | sampleBegins hst => exact .inr ⟨hst.imp_left And.left, rfl⟩
  | stay hst => obtain ⟨hst, -⟩ | hst := hst <;> simp [hst] at hu
  | rise hst _ _ => rcases hst with hst | hst <;> simp [hst] at hu
  | _ => simp at hu

end Sys2Proof.Machine
end

section
/-! The obligations of 41_sampler.md. -/

namespace Sys2Proof.Machine

/-- Settles O20, by the branch that the step took. -/
theorem theSampleIsNeverSkipped : Obligations.TheSampleIsNeverSkipped := by
  intro s t ha hc h
  obtain ⟨u, hu, rfl⟩ := branch_of_step ha hc h
  exact ⟨hu.rampSettle_entry, hu.sample_entry⟩

/-- Settles O19. -/
theorem sampleDwellsThenOpensTheGate : Obligations.SampleDwellsThenOpensTheGate :=
  fun _ => ⟨exec_sample_dwelling, exec_sample_over⟩

end Sys2Proof.Machine
end

section
/-! SUPPORT. The Ramp Converter's edges (42_ramp_converter.md): its rules by their branches, and what no edge but
RAMP_COMPARE's reads. -/

namespace Sys2Proof.Machine

variable {s t u : State} {i : Instr}

/-! ## RAMP_SETTLE and RAMP_COMPARE by their branches -/

/-- The settle delay is not over (R142). -/
theorem exec_rampSettle_settling (hc : s.cnt ≠ 0) : exec .rampSettle s = .next (countDown s) := by
  simp [exec, execRampSettle, hc]

/-- The settle delay is over (R142). -/
theorem exec_rampSettle_over (hc : s.cnt = 0) : exec .rampSettle s = .next { s with st := stRampCompare } := by
  simp [exec, execRampSettle, hc]

theorem exec_rampCompare_match (hm : s.compS = true) : exec .rampCompare s = .next (matchBranch s) := by
  simp [exec, execRampCompare, matchFlag, hm]

theorem exec_rampCompare_last (hm : s.compS = false) (hl : s.code = 255#8) :
    exec .rampCompare s = .next (restLadder s) := by
  simp [exec, execRampCompare, matchFlag, lastFlag, hm, hl]

theorem exec_rampCompare_next (hm : s.compS = false) (hl : s.code ≠ 255#8) :
    exec .rampCompare s = .next (nextStep s) := by
  simp [exec, execRampCompare, matchFlag, lastFlag, hm, hl]

/-- The top bit of the command nibble is 0. -/
theorem word_getLsbD_15 (l : Level) : (word l).getLsbD 15 = false := by
  rw [word_eq_append, BitVec.getLsbD_append]; rfl

/-- The next code does not wrap before code 255. -/
theorem code_succ_toNat {c : Ladder} (h : c ≠ 255#8) : (c + 1#8).toNat = c.toNat + 1 := by
  bv_omega

/-! ## Another comparator at the same edge (R140) -/

/-- RAMP_COMPARE is fetched from `st` alone. -/
theorem st_of_fetch_rampCompare (h : fetch s = .ok .rampCompare) : s.st = 0x3#4 := by
  cases hc : s.dacCall with
  | none =>
    have hd := Except.ok.inj ((fetch_of_noCall hc).symm.trans h)
    exact (CodeWord.fsm.inj (encode_eq_fsm_iff.2 hd.symm)).symm
  | some w =>
    obtain ⟨l, hl, -⟩ := decodeDac_eq_ok ((fetch_of_call hc).symm.trans h)
    cases hl

/-- An instruction other than RAMP_COMPARE reads neither the synchroniser nor `comp_in`: of the inputs it reads the two
that start the block. -/
theorem exec_with_comparator (hi : i ≠ .rampCompare) {ins : List Inputs} {chain : List Bool}
    (hd : { s with inputs := ins, sync := chain }.pins.initDone = s.pins.initDone)
    (hv : { s with inputs := ins, sync := chain }.pins.calValid = s.pins.calValid) (h : exec i s = .next u) :
    exec i { s with inputs := ins, sync := chain } = .next { u with inputs := ins, sync := chain } := by
  cases i <;> obtain rfl := Host.Outcome.next.inj h <;> refine congrArg Host.Outcome.next ?_
  case rampCompare => exact absurd rfl hi
  case init => rw [hd, hv]; split_ifs <;> rfl
  case sample | rampSettle | dacCs | dacSettle => split_ifs <;> rfl
  case dacShiftHi | dacShiftLo => unfold shiftFrame; split_ifs <;> rfl
  all_goals rfl

end Sys2Proof.Machine
end

section
/-! The obligations of 42_ramp_converter.md on single edges. -/

namespace Sys2Proof.Machine

/-- Settles O21. -/
theorem rampSettleWaitsThenCompares : Obligations.RampSettleWaitsThenCompares :=
  fun _ => ⟨exec_rampSettle_settling, exec_rampSettle_over⟩

/-- Settles O22: the match branch, the command nibble's top bit, and the rule's example. -/
theorem matchRecordsAndStartsTheFrame : Obligations.MatchRecordsAndStartsTheFrame :=
  fun _ hm => ⟨exec_rampCompare_match hm, word_getLsbD_15 _, fun hc hp => by rw [hc, hp]; rfl⟩

/-- Settles O23. -/
theorem noMatchStepsOrExhausts : Obligations.NoMatchStepsOrExhausts :=
  fun _ hm => ⟨fun hl => ⟨code_succ_toNat hl, exec_rampCompare_next hm hl⟩, exec_rampCompare_last hm⟩

/-- Settles O24: the rule of RAMP_REST has no branch. -/
theorem rampRestStartsTheNextSample : Obligations.RampRestStartsTheNextSample :=
  fun _ => rfl

/-- Refutes O35: codes 3 and 4 have the mean 3, which is the mean of 3 and 3 too (R170, log 12). -/
theorem not_equalWordsOnlyFromEqualPrev : ¬ Obligations.EqualWordsOnlyFromEqualPrev := by
  intro h
  have hw : word (level (avg 3#8 4#8)) = word (level (avg 3#8 3#8)) := by decide
  exact absurd ((h 3#8 4#8).1 hw) (by decide)

/-- Settles O25: the fetched instruction is not RAMP_COMPARE, and the end of the edge shifts the synchroniser. -/
theorem comparatorIsReadInRampCompareOnly : Obligations.ComparatorIsReadInRampCompareOnly := by
  intro s t p later b chain hs hk hr hst h
  have hp : s.pins = p := by simp [State.pins, State.pinsAt, hs]
  subst hp
  obtain ⟨i, u, hf, hu, rfl⟩ := step_cases_atEdge ⟨hk, hr⟩ h
  have hi : i ≠ .rampCompare := by rintro rfl; exact hst (st_of_fetch_rampCompare hf)
  have hu' := exec_with_comparator (ins := { s.pins with compIn := b } :: later) (chain := chain) hi rfl rfl hu
  have ha' : AtEdge { s with inputs := { s.pins with compIn := b } :: later, sync := chain } := ⟨hk, hr⟩
  rw [step_of_fetch ha' hf hu', finishEdge_of_exec hu', finishEdge_of_exec hu, hs]
  rfl

end Sys2Proof.Machine
end

section
/-! SUPPORT. The search step by step (42_ramp_converter.md R142-R149), with a receiver on the wires. -/

namespace Sys2Proof.Machine

variable {s t u v w : State} {r q : Receiver} {T c m n : Nat}

/-! ## Runs -/

/-- A step that leaves CS_n and SCLK as they were shows nothing. -/
theorem watch_one_quiet (h : step s = .next t) (hn : t.csN = s.csN) (hk : t.sclk = s.sclk) (r : Receiver) :
    watch 1 s r = some (t, r) := by
  rw [watch_one h]
  simp [Receiver.see, State.ports, hn, hk]

/-- CS_n falling opens a window. -/
theorem Receiver.see_select {before now : Ports} (hb : before.dacCsN = true) (hn : now.dacCsN = false) :
    r.see before now = { r with bits := [] } := by
  simp [Receiver.see, hb, hn]

/-- A watched run goes on where the one before it ended. -/
theorem watch_trans {p : State × Receiver} (h : watch m s r = some (t, q)) (hn : watch n t q = some p) :
    watch (m + n) s r = some p :=
  (watch_add m n h).trans hn

theorem Threshold.mono (ht : Threshold T s n) (h : m ≤ n) : Threshold T s m :=
  fun k hk => ht k (hk.trans_le h)

/-- What is left of a run under THRESHOLD(T). -/
theorem Threshold.drop (ht : Threshold T s (m + n)) (h : after m s = some v) : Threshold T v n := by
  intro k hk u hu
  exact ht (m + k) (by omega) u (by rw [after_add, h]; exact hu)

/-! ## One step of the search -/

/-- `v` stands on code `c` of a search whose first cycle left these registers as they are in `s`. -/
structure OnCode (s : State) (c : Nat) (v : State) : Prop where
  noCall : v.dacCall = none
  code : v.code = BitVec.ofNat 8 c
  ladder : v.ladder = v.code
  prev : v.prev = s.prev
  sr : v.sr = s.sr
  csN : v.csN = s.csN
  sclk : v.sclk = s.sclk
  mosi : v.mosi = s.mosi
  params : v.params = s.params

/-- `v` is the first cycle of the search's step on code `c`. -/
structure StepBegins (s : State) (c : Nat) (v : State) : Prop extends OnCode s c v where
  st : v.st = 0x2#4
  cnt : v.cnt = s.params.tLadder - 1

/-- `v` tests the comparator on code `c` under THRESHOLD(T). -/
structure TestsCode (s : State) (T c : Nat) (v : State) : Prop extends OnCode s c v where
  st : v.st = 0x3#4
  atEdge : AtEdge v
  compS : v.compS = decide (T ≤ c)

theorem OnCode.code_toNat (h : OnCode s c v) (hc : c ≤ 255) : v.code.toNat = c := by
  rw [h.code, BitVec.toNat_ofNat]; omega

/-- The level of a match is that of the code and of the `prev` before the search (R144). -/
theorem OnCode.matchLevel_eq (h : OnCode s c v) : matchLevel v = level (avg (BitVec.ofNat 8 c) s.prev) := by
  rw [matchLevel, h.code, h.prev]

/-- The settle delay shows nothing on the wires and leads to the comparator test (R142). -/
theorem StepBegins.watch_test (h : StepBegins s c v) (hL : 1 ≤ s.params.tLadder) (hc : c ≤ 255)
    (hr : RunsFor (s.params.tLadder + 1) v) (ht : Threshold T v (s.params.tLadder + 1)) (r : Receiver) :
    ∃ w, watch s.params.tLadder v r = some (w, r) ∧ TestsCode s T c w := by
  obtain ⟨m, hm⟩ := Nat.exists_eq_add_of_le' hL
  rw [hm] at hr ht ⊢
  obtain ⟨u, ha, hu, hw⟩ := watch_delay m r (by simp [h.st, delaying]) h.noCall (by rw [h.cnt, hm]; rfl)
    (hr.mono (Nat.le_succ _))
  have hs := step_rampSettle ha (by rw [hu]) (by rw [hu]; exact h.st)
  rw [if_neg (by rw [hu]; simp)] at hs
  have hrun := hw.trans (watch_one_quiet hs rfl rfl r)
  have ho : OnCode s c (finishEdge { u with st := stRampCompare }) := by
    rw [hu]; exact { h.toOnCode with noCall := rfl }
  have hafter := after_of_watch _ hrun
  refine ⟨_, hrun, { ho with st := rfl, atEdge := hr.drop hafter 0 Nat.one_pos, compS := ?_ }⟩
  rw [ht (m + 1) (Nat.lt_succ_self _) _ hafter rfl, ho.code_toNat hc]

/-- The cycles of a step: the settle delay on the code's ladder value, then the test (R142, R143). -/
theorem StepBegins.states (h : StepBegins s c v) (hL : 1 ≤ s.params.tLadder) (hc : c ≤ 255)
    (hr : RunsFor (s.params.tLadder + 1) v) (ht : Threshold T v (s.params.tLadder + 1)) {i : Nat}
    (hi : i ≤ s.params.tLadder) :
    ∃ u, after i v = some u ∧ u.ladder.toNat = c ∧ u.st = if i = s.params.tLadder then 0x3#4 else 0x2#4 := by
  by_cases he : i = s.params.tLadder
  · obtain ⟨w, hw, htest⟩ := h.watch_test hL hc hr ht ⟨[], []⟩
    exact ⟨w, he ▸ after_of_watch _ hw, by rw [htest.ladder, htest.code_toNat hc], by rw [if_pos he, htest.st]⟩
  · obtain ⟨hdelay, -⟩ := delay_lasts (s.params.tLadder - 1) (.inr (.inl h.st)) h.noCall h.cnt (hr.mono (by omega))
    obtain ⟨u, hu, hst, -, hports⟩ := hdelay i (by omega)
    have hl : u.ladder = v.ladder := congrArg Ports.ladder hports
    exact ⟨u, hu, by rw [hl, h.ladder, h.code_toNat hc], by rw [if_neg he, hst, h.st]⟩

theorem TestsCode.step_match (h : TestsCode s T T w) : step w = .next (finishEdge (matchBranch w)) :=
  Machine.step_match h.atEdge h.noCall h.st (by simp [h.compS])

theorem TestsCode.step_miss (h : TestsCode s T c w) (hc : c < T) :
    step w = .next (finishEdge (if w.code == 255#8 then restLadder w else nextStep w)) := by
  have hm : w.compS = false := by simpa [h.compS] using hc
  simp [step_rampCompare h.atEdge h.noCall h.st, hm]

/-- A miss before the last code begins the next step (R145). -/
theorem TestsCode.step_next (h : TestsCode s T c w) (hc : c < T) (hl : c < 255) : step w = .next (finishEdge (nextStep w)) := by
  have hne : w.code ≠ 255#8 := by
    intro e
    have := h.code_toNat hl.le
    rw [e] at this
    exact hl.ne' this
  simpa [hne] using h.step_miss hc

/-- A miss on the last code ends the search (R146). -/
theorem TestsCode.step_exhausted (h : TestsCode s T 255 w) (hT : 255 < T) : step w = .next (finishEdge (restLadder w)) := by
  have hl : w.code = 255#8 := h.code
  simpa [hl] using h.step_miss hT

theorem TestsCode.next_begins (h : TestsCode s T c w) : StepBegins s (c + 1) (finishEdge (nextStep w)) where
  noCall := rfl
  code := by
    show w.code + 1#8 = _
    rw [h.code, BitVec.ofNat_add]
  ladder := rfl
  prev := h.prev
  sr := h.sr
  csN := h.csN
  sclk := h.sclk
  mosi := h.mosi
  params := h.params
  st := rfl
  cnt := congrArg (fun p : Params => p.tLadder - 1) h.params

/-! ## The whole search -/

/-- R149: below the threshold the search goes through the codes in order, T_LADDER + 1 cycles each. -/
theorem StepBegins.watch_codes (h : StepBegins s 0 v) (hL : 1 ≤ s.params.tLadder) (r : Receiver) :
    ∀ c ≤ 255, c ≤ T → RunsFor (c * (s.params.tLadder + 1)) v → Threshold T v (c * (s.params.tLadder + 1)) →
      ∃ u, watch (c * (s.params.tLadder + 1)) v r = some (u, r) ∧ StepBegins s c u := by
  intro c
  induction c with
  | zero => exact fun _ _ _ _ => ⟨v, by simp [watch], h⟩
  | succ c ih =>
    intro hc hT hr ht
    rw [Nat.succ_mul] at hr ht ⊢
    obtain ⟨u, hu, hbegin⟩ := ih (by omega) (by omega) (hr.mono (Nat.le_add_right _ _)) (ht.mono (Nat.le_add_right _ _))
    have hafter := after_of_watch _ hu
    obtain ⟨w, hw, htest⟩ := hbegin.watch_test hL (by omega) (hr.drop hafter) (ht.drop hafter) r
    have hmiss := watch_one_quiet (htest.step_next (by omega) (by omega)) rfl rfl r
    exact ⟨_, watch_trans hu (watch_trans hw hmiss), htest.next_begins⟩

/-- The comparator test of code `c`, seen from the search's first cycle. -/
theorem StepBegins.watch_to_test (h : StepBegins s 0 v) (hL : 1 ≤ s.params.tLadder) (hc : c ≤ 255) (hT : c ≤ T)
    (hr : RunsFor ((c + 1) * (s.params.tLadder + 1)) v) (ht : Threshold T v ((c + 1) * (s.params.tLadder + 1)))
    (r : Receiver) :
    ∃ w, watch (c * (s.params.tLadder + 1) + s.params.tLadder) v r = some (w, r) ∧ TestsCode s T c w := by
  rw [Nat.succ_mul] at hr ht
  obtain ⟨u, hu, hbegin⟩ := h.watch_codes hL r c hc hT (hr.mono (Nat.le_add_right _ _)) (ht.mono (Nat.le_add_right _ _))
  have hafter := after_of_watch _ hu
  obtain ⟨w, hw, htest⟩ := hbegin.watch_test hL hc (hr.drop hafter) (ht.drop hafter) r
  exact ⟨w, watch_trans hu hw, htest⟩

/-- The cycle `k` of a search is cycle `k % (T_LADDER + 1)` of the step on code `k / (T_LADDER + 1)`. -/
theorem StepBegins.search_states (h : StepBegins s 0 v) (hL : 1 ≤ s.params.tLadder) (hc : c ≤ 255) (hT : c ≤ T)
    (hr : RunsFor ((c + 1) * (s.params.tLadder + 1)) v) (ht : Threshold T v ((c + 1) * (s.params.tLadder + 1)))
    {k : Nat} (hk : k < (c + 1) * (s.params.tLadder + 1)) :
    ∃ u, after k v = some u ∧ u.ladder.toNat = k / (s.params.tLadder + 1) ∧
      u.st = if k % (s.params.tLadder + 1) = s.params.tLadder then 0x3#4 else 0x2#4 := by
  have hj : k / (s.params.tLadder + 1) < c + 1 := Nat.div_lt_of_lt_mul (by rwa [Nat.mul_comm])
  have hle : (k / (s.params.tLadder + 1) + 1) * (s.params.tLadder + 1) ≤ (c + 1) * (s.params.tLadder + 1) :=
    Nat.mul_le_mul_right _ hj
  replace hr := hr.mono hle
  replace ht := ht.mono hle
  rw [Nat.succ_mul] at hr ht
  obtain ⟨u, hu, hbegin⟩ := h.watch_codes hL ⟨[], []⟩ (k / (s.params.tLadder + 1)) (by omega) (by omega)
    (hr.mono (Nat.le_add_right _ _)) (ht.mono (Nat.le_add_right _ _))
  have hafter := after_of_watch _ hu
  obtain ⟨x, hx, hladder, hst⟩ := hbegin.states hL (by omega) (hr.drop hafter) (ht.drop hafter)
    (Nat.lt_succ_iff.1 (Nat.mod_lt k (Nat.succ_pos s.params.tLadder)))
  refine ⟨x, ?_, hladder, hst⟩
  rw [← Nat.div_add_mod' k (s.params.tLadder + 1), after_add, hafter]
  exact hx

/-- The first cycle of a search at code 0 in a state that meets the invariant. -/
theorem StepBegins.of_inv (hs : Inv s) (hst : s.st = 0x2#4) (hcnt : s.cnt = s.params.tLadder - 1) (hc : s.code = 0#8) :
    StepBegins s 0 s :=
  { noCall := hs.noCall, code := hc, ladder := hs.ports.ladder_eq, prev := rfl, sr := rfl, csN := rfl, sclk := rfl,
    mosi := rfl, params := rfl, st := hst, cnt := hcnt }

end Sys2Proof.Machine
end

section
/-! The obligation of 42_ramp_converter.md on the search. -/

namespace Sys2Proof.Machine

/-- Settles O28: the search tests the codes 0 to min(T, 255), and what it finds at the last of them is a match or the
exhaustion. -/
theorem searchFindsTheThreshold : Obligations.SearchFindsTheThreshold := by
  intro s T n hs hst hcnt hcode hT hn hr ht
  have hL : 1 ≤ s.params.tLadder := hs.legal.2.1
  have hbegin := StepBegins.of_inv hs hst hcnt hcode
  have hn' : n = (min T 255 + 1) * (s.params.tLadder + 1) := by
    rw [hn]; congr 1; split_ifs <;> omega
  subst hn'
  clear hn
  obtain ⟨w, hw, htest⟩ := hbegin.watch_to_test hL (min_le_right _ _) (min_le_left _ _) hr ht ⟨[], []⟩
  refine ⟨fun k hk => hbegin.search_states hL (min_le_right _ _) (min_le_left _ _) hr ht hk, ?_⟩
  have hlast := after_of_watch _ hw
  have hend : after ((min T 255 + 1) * (s.params.tLadder + 1)) s = after 1 w := by
    rw [Nat.succ_mul, ← Nat.add_assoc, after_add, hlast]; rfl
  rw [hend]
  obtain hlt | rfl : T ≤ 255 ∨ T = 256 := by omega
  · rw [min_eq_left hlt] at htest
    have hcT := htest.code_toNat hlt
    refine ⟨_, after_succ htest.step_match 0, fun _ => ⟨rfl, hcT, hcT, rfl, ?_⟩, by omega⟩
    exact congrArg word htest.matchLevel_eq
  · exact ⟨_, after_succ (htest.step_exhausted (by omega)) 0, by omega,
      fun _ => ⟨rfl, rfl, rfl, htest.prev, htest.sr, htest.csN, htest.sclk, htest.mosi⟩⟩

end Sys2Proof.Machine
end

section
/-! SUPPORT. A conversion cycle that ends in a match, from one rise of `sample_gate` to the next (R149, R197, R270). -/

namespace Sys2Proof.Machine

variable {s t u v w : State} {r : Receiver} {T n : Nat}

/-! ## `prev` after the first match, and a code's level -/

/-- The comparator test at the coming instant, if it is one, answers as THRESHOLD(T) asks. -/
theorem Threshold.now (ht : Threshold T s (n + 1)) : s.st = 0x3#4 → s.compS = decide (T ≤ s.code.toNat) :=
  ht 0 n.succ_pos s rfl

/-- Under THRESHOLD(T) no branch takes `code` beyond T. -/
theorem Branch.code_le (h : Branch s u) (ht : s.st = 0x3#4 → s.compS = decide (T ≤ s.code.toNat)) (hc : s.code.toNat ≤ T) :
    u.code.toNat ≤ T := by
  cases h with
  | stepped hst hm hl =>
    have hlt : s.code.toNat < T := by simpa [hm] using ht hst
    exact (code_succ_toNat hl).trans_le hlt
  | exhausted _ _ _ | done _ | illegal _ => exact Nat.zero_le T
  | _ => exact hc

/-- Under THRESHOLD(T) a match with `code` at most T is one at T. -/
theorem Branch.prev_stays (h : Branch s u) (ht : s.st = 0x3#4 → s.compS = decide (T ≤ s.code.toNat))
    (hc : s.code.toNat ≤ T) (hp : s.prev.toNat = T) : u.prev.toNat = T := by
  cases h with
  | matched hst hm => exact hc.antisymm (by simpa [hm] using ht hst)
  | _ => exact hp

/-- Under THRESHOLD(T) `prev` stays at T. -/
theorem prev_of_threshold (n : Nat) : ∀ {s : State}, s.dacCall = none → RunsFor n s → Threshold T s n →
    s.code.toNat ≤ T → s.prev.toNat = T → after n s = some t → t.prev.toNat = T := by
  induction n with
  | zero =>
    intro s _ _ _ _ hp h
    obtain rfl : s = t := by simpa using h
    exact hp
  | succ n ih =>
    intro s hcall hr ht hc hp h
    obtain ⟨u, hu, hs⟩ := step_branch (hr 0 n.succ_pos) hcall
    have h1 : after 1 s = some (finishEdge u) := after_succ hs 0
    have hnow := ht.now
    rw [Nat.add_comm] at ht
    rw [after_succ hs] at h
    exact ih rfl (hr.step hs) (ht.drop h1) (hu.code_le hnow hc) (hu.prev_stays hnow hc hp) h

/-- The level of a code by R171's formula. -/
theorem level_eq {c : Ladder} {k : Nat} (h : c.toNat = k) : level c = BitVec.ofNat 16 (k * 5 + 30) := by
  rw [← h]; rfl

/-! ## The parts of a cycle -/

/-- The invariant holds at the end of any run that begins with it. -/
theorem Inv.after (hs : Inv s) (h : after n s = some t) : Inv t :=
  after_induction step_inv hs h

theorem params_of_after (h : after n s = some t) : t.params = s.params :=
  after_induction (P := fun u => u.params = s.params) (fun hp h => (step_environment h).2.2.1.trans hp) rfl h

/-- The first cycle of SAMPLE in a state that meets the invariant. -/
structure SampleBegins (s : State) : Prop where
  inv : Inv s
  st : s.st = 0x1#4
  cnt : s.cnt = s.params.tDwell - 1

/-- The dwell shows nothing on the wires and leads to the first cycle of a search at code 0 (R120). -/
theorem SampleBegins.watch_dwell (h : SampleBegins s) (hr : RunsFor s.params.tDwell s) (r : Receiver) :
    ∃ v, watch s.params.tDwell s r = some (v, r) ∧ StepBegins s 0 v := by
  obtain ⟨m, hm⟩ := Nat.exists_eq_add_of_le' h.inv.legal.1
  rw [hm] at hr ⊢
  obtain ⟨u, ha, hu, hw⟩ := watch_delay m r (by simp [h.st, delaying]) h.inv.noCall (by rw [h.cnt, hm]; rfl) hr
  have hs := step_sample ha (by rw [hu]) (by rw [hu]; exact h.st)
  rw [if_neg (by rw [hu]; simp)] at hs
  refine ⟨_, hw.trans (watch_one_quiet hs rfl rfl r), ?_⟩
  have hcode : s.code = 0#8 := (h.inv.ports.at_rest (.inr (.inl h.st))).1
  rw [hu]
  exact { noCall := rfl, code := hcode, ladder := rfl, prev := rfl, sr := rfl, csN := rfl, sclk := rfl, mosi := rfl,
          params := rfl, st := rfl, cnt := rfl }

/-- Chip-select is deasserted while the comparator is tested (R38.2). -/
theorem csN_of_test (hs : Inv s) (hst : s.st = 0x3#4) : s.csN = true := by
  simpa [hst] using hs.ports.csN_iff

/-- A match begins the first half period of its word's frame (R144). -/
theorem matchBranch_halfPeriod (s : State) : HalfPeriod (word (matchLevel s)) 0 (finishEdge (matchBranch s)) where
  st := rfl
  noCall := rfl
  csN := rfl
  sclk := rfl
  bitcnt := rfl
  sr := by simp
  mosi := rfl

/-- From the search's first cycle to the frame's (R149): the match at T opens a window on the wires. -/
theorem StepBegins.watch_match (h : StepBegins s 0 v) (hv : Inv v) (hT : T ≤ 255)
    (hr : RunsFor ((T + 1) * (s.params.tLadder + 1)) v) (ht : Threshold T v ((T + 1) * (s.params.tLadder + 1)))
    (r : Receiver) :
    ∃ w, TestsCode s T T w ∧
      watch ((T + 1) * (s.params.tLadder + 1)) v r = some (finishEdge (matchBranch w), { r with bits := [] }) := by
  have hL : 1 ≤ s.params.tLadder := h.params ▸ hv.legal.2.1
  obtain ⟨w, hw, htest⟩ := h.watch_to_test hL hT le_rfl hr ht r
  have hcs := csN_of_test (hv.after (after_of_watch _ hw)) htest.st
  have hmatch := watch_one htest.step_match r
  rw [Receiver.see_select hcs rfl] at hmatch
  refine ⟨w, htest, ?_⟩
  rw [Nat.succ_mul, ← Nat.add_assoc]
  exact watch_trans hw hmatch

/-- DAC_DONE and RAMP_REST take one edge each and show nothing on the wires (R196, R147). -/
theorem watch_rest (hs : Inv s) (hst : s.st = 0x8#4) (hr : RunsFor 2 s) (r : Receiver) :
    ∃ t, watch 2 s r = some (t, r) ∧ SampleBegins t := by
  have hdone := step_dacDone (hr 0 (by omega)) hs.noCall hst
  have hsample := step_rampRest ((hr.step hdone) 0 (by omega)) rfl rfl
  exact ⟨_, watch_trans (watch_one_quiet hdone rfl rfl r) (watch_one_quiet hsample rfl rfl r),
    { inv := step_inv (step_inv hs hdone) hsample, st := rfl, cnt := rfl }⟩

/-! ## The cycle -/

/-- The loop period of R270 for a search that matches at T. -/
def matchPeriod (p : Params) (T : Nat) : Nat :=
  p.tDwell + ((T + 1) * (p.tLadder + 1) + ((32 * p.sclkHalf + p.tDacSettle) + 2))

/-- A conversion cycle under THRESHOLD(T), T ≤ 255: the receiver is given the frame of the match's word and nothing else,
`prev` is T, and the next sample begins (R149, R199, R270). -/
theorem SampleBegins.watch_cycle (h : SampleBegins s) (hT : T ≤ 255) (hr : RunsFor (matchPeriod s.params T) s)
    (ht : Threshold T s (matchPeriod s.params T)) (r : Receiver) :
    ∃ t, watch (matchPeriod s.params T) s r =
        some (t, { bits := [], frames := r.frames ++ [frameOf (word (level (avg (BitVec.ofNat 8 T) s.prev)))] }) ∧
      SampleBegins t ∧ t.prev.toNat = T ∧ t.params = s.params := by
  unfold matchPeriod at *
  obtain ⟨v, hv, hbegin⟩ := h.watch_dwell (hr.mono (Nat.le_add_right _ _)) r
  have hafter := after_of_watch _ hv
  have hinv := h.inv.after hafter
  replace hr := hr.drop hafter
  replace ht := ht.drop hafter
  obtain ⟨w, htest, hw⟩ :=
    hbegin.watch_match hinv hT (hr.mono (Nat.le_add_right _ _)) (ht.mono (Nat.le_add_right _ _)) r
  have hafter := after_of_watch _ hw
  replace hinv := hinv.after hafter
  replace hr := hr.drop hafter
  replace ht := ht.drop hafter
  have hpar : (finishEdge (matchBranch w)).params = s.params := htest.params
  have hcode : w.code.toNat = T := htest.code_toNat hT
  obtain ⟨u, hu, hst, -⟩ := (matchBranch_halfPeriod w).watch_frame hinv.legal rfl
    (by rw [hpar]; exact hr.mono (Nat.le_add_right _ _)) { r with bits := [] }
  rw [hpar, htest.matchLevel_eq] at hu
  have hafter' := after_of_watch _ hu
  obtain ⟨t, hrest, hsample⟩ := watch_rest (hinv.after hafter') hst (hr.drop hafter')
    { bits := [], frames := r.frames ++ [frameOf (word (level (avg (BitVec.ofNat 8 T) s.prev)))] }
  have hframe := watch_trans hu hrest
  have hend := after_of_watch _ hframe
  exact ⟨t, watch_trans hv (watch_trans hw hframe), hsample,
    prev_of_threshold _ rfl hr ht hcode.le hcode hend, (params_of_after hend).trans hpar⟩

end Sys2Proof.Machine
end

section
/-! The obligation of 42_ramp_converter.md on two cycles. -/

namespace Sys2Proof.Machine

/-- Settles O56: the cycle's theorem twice, from `prev` = p and from `prev` = T. -/
theorem twoCyclesSendTheMeanThenTheLevel : Obligations.TwoCyclesSendTheMeanThenTheLevel := by
  intro s T period r hs hst hcnt hT hperiod hr ht
  have hp : period = matchPeriod s.params T := by rw [hperiod, matchPeriod]; omega
  rw [hp, Nat.two_mul] at hr ht ⊢
  obtain ⟨u, hu, hbegin, hprev, hpar⟩ := SampleBegins.watch_cycle ⟨hs, hst, hcnt⟩ hT
    (hr.mono (Nat.le_add_right _ _)) (ht.mono (Nat.le_add_right _ _)) r
  have hafter := after_of_watch _ hu
  replace hr := hr.drop hafter
  replace ht := ht.drop hafter
  rw [← hpar] at hr ht
  obtain ⟨t, hw, hsample, hprev', -⟩ := hbegin.watch_cycle hT hr ht
    { bits := [], frames := r.frames ++ [frameOf (word (level (avg (BitVec.ofNat 8 T) s.prev)))] }
  have hT8 : (BitVec.ofNat 8 T).toNat = T := by rw [BitVec.toNat_ofNat]; omega
  have hmean : (avg (BitVec.ofNat 8 T) s.prev).toNat = (T + s.prev.toNat) >>> 1 := by
    rw [avg_toNat, hT8]; rfl
  have hsame : (avg (BitVec.ofNat 8 T) u.prev).toNat = T := by rw [avg_toNat, hT8, hprev]; omega
  rw [hpar] at hw
  refine ⟨t, (watch_trans hu hw).trans ?_, hsample.st, hprev'⟩
  rw [level_eq hmean, level_eq hsame, List.append_assoc]
  rfl

end Sys2Proof.Machine
end

section
/-! SUPPORT. The smoothing and word-packing datapath (43_smoothing.md R170-R175): the mean, the level of a code in its
word, and the word that a match loads. -/

namespace Sys2Proof.Machine

variable {s t : State} {a b : Ladder}

/-! ## The mean (R170) -/

theorem avg_comm (a b : Ladder) : avg a b = avg b a := by
  rw [avg, Nat.add_comm, avg]

theorem avg_self (a : Ladder) : avg a a = a := by
  apply BitVec.eq_of_toNat_eq
  rw [avg_toNat]
  omega

/-- Half an odd sum is lost: the mean with T is T for T's successor too. -/
theorem avg_eq_left_iff : avg a b = a ↔ b = a ∨ b.toNat = a.toNat + 1 := by
  rw [← BitVec.toNat_inj, ← BitVec.toNat_inj, avg_toNat]
  omega

/-! ## A code's level in its word (R171, R172) -/

/-- The command nibble stands above a 12-bit level, whatever the level (R172). -/
theorem word_and_cmdMask (l : Level) : word l &&& 0xF000#16 = 0x1000#16 := by
  show (0x1000#16 ||| l &&& 0x0FFF#16) &&& 0xF000#16 = 0x1000#16
  have hdisjoint : 0x0FFF#16 &&& 0xF000#16 = 0#16 := rfl
  rw [BitVec.and_or_distrib_right, BitVec.and_assoc, hdisjoint, BitVec.and_zero]
  rfl

theorem word_field_toNat (l : Level) : ((word l).extractLsb' 0 12).toNat = l.toNat % 4096 := by
  rw [word_level, BitVec.extractLsb'_toNat, Nat.shiftRight_zero]

/-- Words are equal exactly if their levels agree in the low 12 bits (R172). -/
theorem word_eq_iff {l m : Level} : word l = word m ↔ l.toNat % 4096 = m.toNat % 4096 := by
  rw [← BitVec.toNat_inj, word_toNat, word_toNat]
  omega

/-- A code's level is at most 1305 (R171). -/
theorem level_le (c : Ladder) : (level c).toNat ≤ 1305 := by
  have := c.isLt
  rw [level_toNat]
  omega

/-- A code's level fits the LEVEL field, so masking does not change it (R173). -/
theorem level_mod (c : Ladder) : (level c).toNat % 4096 = c.toNat * 5 + 30 := by
  rw [Nat.mod_eq_of_lt ((level_le c).trans_lt (by decide)), level_toNat]

/-- The word of a code determines the code. -/
theorem word_level_inj : word (level a) = word (level b) ↔ a = b := by
  rw [word_eq_iff, level_mod, level_mod, ← BitVec.toNat_inj]
  omega

/-! ## The word that a match loads (R173) -/

/-- What RAMP_COMPARE answers at a match is the match branch. -/
theorem eq_matchBranch (hm : s.compS = true) (h : exec .rampCompare s = .next t) : t = matchBranch s :=
  (Host.Outcome.next.inj ((exec_rampCompare_match hm).symm.trans h)).symm

theorem matchLevel_eq (s : State) : matchLevel s = BitVec.ofNat 16 (((s.code.toNat + s.prev.toNat) >>> 1) * 5 + 30) :=
  level_eq (avg_toNat s.code s.prev)

theorem matchLevel_mod (s : State) : (matchLevel s).toNat % 4096 = ((s.code.toNat + s.prev.toNat) >>> 1) * 5 + 30 := by
  rw [matchLevel, level_mod, avg_toNat]
  rfl

/-- A match at a code with `prev` at the same code: the mean is the code itself. -/
def matchAt (c : Ladder) : State := { State.reset with code := c, prev := c, sync := [true] }

theorem matchLevel_matchAt (c : Ladder) : matchLevel (matchAt c) = level c :=
  congrArg level (avg_self c)

/-! ## DAC_WRITE (R172, R144) -/

theorem exec_dacWrite (l : Level) (s : State) : exec (.dacWrite l) s = .next (startFrame (word l) s) := rfl

/-- A frame of a packed level begins with `mosi` at 0, the top bit of the command nibble (R172). -/
theorem startFrame_word (l : Level) (s : State) :
    startFrame (word l) s =
      { s with sr := word l, mosi := false, sclk := false, csN := false, bitcnt := 0#4, cnt := s.params.sclkHalf - 1,
               st := stDacCs } := by
  rw [startFrame, word_getLsbD_15]

end Sys2Proof.Machine
end

section
/-! The obligations of 43_smoothing.md, and DAC_WRITE. -/

namespace Sys2Proof.Machine

/-- Settles O30: every clause is one of the mean as a number. -/
theorem smoothingIsTheTruncatedMean : Obligations.SmoothingIsTheTruncatedMean := by
  refine ⟨fun a b => ⟨avg_toNat a b, avg_comm a b, avg_self a, ?_, ?_⟩, rfl, rfl, rfl⟩ <;> rw [avg_toNat] <;> omega

/-- Settles O31: the formula holds without wrapping, and the next code is one more. -/
theorem levelIsScaledAndOffset : Obligations.LevelIsScaledAndOffset := by
  refine ⟨fun s => ⟨level_toNat s, ?_, level_le s, fun hs => ?_⟩, rfl, rfl, rfl⟩
  · rw [level_toNat]
    exact Nat.le_add_left 30 _
  · rw [level_toNat, level_toNat, code_succ_toNat hs]
    omega

/-- Settles O32: a word holds its level's low 12 bits under the command nibble. -/
theorem packingMasksTheLevel : Obligations.PackingMasksTheLevel := by
  refine ⟨fun x => ⟨rfl, word_and_cmdMask x, word_eq_iff.2 ?_, word_toNat x⟩, rfl, rfl, rfl, rfl⟩
  rw [BitVec.toNat_ofNat]
  omega

/-- Settles O33: the match's word is that of its level, which fits the LEVEL field. -/
theorem matchWordFormula : Obligations.MatchWordFormula := by
  intro s t hm h
  obtain rfl := eq_matchBranch hm h
  have hle : (matchLevel s).toNat ≤ 1305 := level_le _
  have hge : 30 ≤ (matchLevel s).toNat % 4096 := by rw [matchLevel_mod]; exact Nat.le_add_left 30 _
  rw [matchBranch_sr]
  refine ⟨?_, ?_, ?_, ?_, fun hc hp => ?_⟩
  · rw [matchLevel_eq]
    rfl
  · rw [word_field_toNat, matchLevel_mod]
  · rw [word_toNat]
    omega
  · rw [word_toNat]
    omega
  · rw [matchLevel, hc, hp]
    rfl

/-- Settles O34: k is the mean, and a match with `code` and `prev` both k has that mean. -/
theorem outputLevelsAreThe256Multiples : Obligations.OutputLevelsAreThe256Multiples := by
  refine ⟨fun s t hm h => ?_, fun k hk => ?_⟩
  · obtain rfl := eq_matchBranch hm h
    refine ⟨(avg s.code s.prev).toNat, Nat.le_of_lt_succ (BitVec.isLt _), ?_⟩
    rw [matchBranch_sr, word_field_toNat, matchLevel, level_mod]
    omega
  · have hm : (matchAt (BitVec.ofNat 8 k)).compS = true := rfl
    refine ⟨_, _, hm, exec_rampCompare_match hm, ?_⟩
    rw [matchBranch_sr, word_field_toNat, matchLevel_matchAt, level_mod, BitVec.toNat_ofNat]
    omega

/-- Settles O36: equal words have equal means, and a mean of T and p is T for these two p alone. -/
theorem equalWordsFromPrevOrItsSuccessor : Obligations.EqualWordsFromPrevOrItsSuccessor := by
  intro T p
  rw [word_level_inj, avg_self]
  exact avg_eq_left_iff

/-- Settles O41: DAC_WRITE starts the frame of its level, and so does the match branch, which also writes `prev`. -/
theorem dacWriteStartsAFrame : Obligations.DacWriteStartsAFrame := by
  intro l s
  refine ⟨(exec_dacWrite l s).trans (congrArg _ (startFrame_word l s)), fun hm t u ht hu => ?_⟩
  obtain rfl := eq_matchBranch hm ht
  obtain rfl := Host.Outcome.next.inj hu
  rfl

end Sys2Proof.Machine
end

section
/-! SUPPORT. The DAC Driver's rules by their branches (44_dac_driver.md R190-R194). -/

namespace Sys2Proof.Machine

variable {s : State} {i : Instr}

/-- The half period of DAC_CS is not over (R190). -/
theorem exec_dacCs_waiting (hc : s.cnt ≠ 0) : exec .dacCs s = .next (countDown s) := by
  simp [exec, execDacCs, hc]

/-- The first rising edge of SCLK (R190). -/
theorem exec_dacCs_over (hc : s.cnt = 0) : exec .dacCs s = .next { raiseSclk s with st := stDacShiftHi } := by
  simp [exec, execDacCs, hc]

/-- The settling delay is not over (R194). -/
theorem exec_dacSettle_waiting (hc : s.cnt ≠ 0) : exec .dacSettle s = .next (countDown s) := by
  simp [exec, execDacSettle, hc]

/-- CS_n rises (R194). -/
theorem exec_dacSettle_over (hc : s.cnt = 0) : exec .dacSettle s = .next { s with csN := true, st := stDacDone } := by
  simp [exec, execDacSettle, hc]

/-- The two shift states share one pseudocode (R192). -/
theorem exec_of_shift (hi : i = .dacShiftHi ∨ i = .dacShiftLo) (s : State) : exec i s = .next (shiftFrame s) := by
  rcases hi with rfl | rfl <;> rfl

/-- A falling edge of SCLK before the bits 1 to 7 (R191). -/
theorem shiftFrame_of_next_hi (h0 : s.cnt = 0) (hk : s.sclk = true) (hn : s.bitcnt.toNat + 1 ≤ 7) :
    shiftFrame s = { nextBit s with st := stDacShiftHi } := by
  have hb : s.bitcnt ≠ 15#4 := by bv_omega
  rw [shiftFrame_of_high h0 hk, if_pos hb]
  obtain ⟨-, e⟩ | ⟨hlo, -⟩ := nextBit_eq s
  · exact e
  · omega

/-- A falling edge of SCLK before the bits 8 to 15 (R191, R192). -/
theorem shiftFrame_of_next_lo (h0 : s.cnt = 0) (hk : s.sclk = true) (hn : 7 < s.bitcnt.toNat + 1) (hb : s.bitcnt ≠ 15#4) :
    shiftFrame s = { nextBit s with st := stDacShiftLo } := by
  rw [shiftFrame_of_high h0 hk, if_pos hb]
  obtain ⟨hhi, -⟩ | ⟨-, e⟩ := nextBit_eq s
  · omega
  · exact e

/-- The last falling edge of SCLK (R191). -/
theorem shiftFrame_of_last (h0 : s.cnt = 0) (hk : s.sclk = true) (hb : s.bitcnt = 15#4) : shiftFrame s = endFrame s := by
  rw [shiftFrame_of_high h0 hk, if_neg (not_not.2 hb)]

end Sys2Proof.Machine
end

section
/-! The obligations of 44_dac_driver.md on single edges. -/

namespace Sys2Proof.Machine

/-- Settles O37. -/
theorem dacCsSetsUpThenRaisesSclk : Obligations.DacCsSetsUpThenRaisesSclk :=
  fun _ => ⟨exec_dacCs_waiting, exec_dacCs_over⟩

/-- Settles O38: both states run the shared pseudocode, which has these five branches. -/
theorem shiftStatesSendTheFrameBits : Obligations.ShiftStatesSendTheFrameBits := by
  intro i s hi
  rw [exec_of_shift hi]
  exact ⟨fun hc => congrArg _ (shiftFrame_of_wait hc), fun hc hk => congrArg _ (shiftFrame_of_low hc hk),
    fun hc hk hn => congrArg _ (shiftFrame_of_next_hi hc hk hn),
    fun hc hk hn hb => congrArg _ (shiftFrame_of_next_lo hc hk hn hb),
    fun hc hk hb => congrArg _ (shiftFrame_of_last hc hk hb)⟩

/-- Settles O39. -/
theorem dacSettleThenDeasserts : Obligations.DacSettleThenDeasserts :=
  fun _ => ⟨exec_dacSettle_waiting, exec_dacSettle_over⟩

/-- Settles O40: the rule of DAC_DONE has no branch. -/
theorem dacDoneRestsTheLadder : Obligations.DacDoneRestsTheLadder :=
  fun _ => rfl

end Sys2Proof.Machine
end

section
/-! SUPPORT. The edge that begins a frame (R144; log 6 for a placed word). -/

namespace Sys2Proof.Machine

variable {s : State} {w : DacWord}

/-- A placed word with the write command starts its own frame (log 6). -/
theorem step_placedWord (ha : AtEdge s) (hc : s.dacCall = some w) (hw : w.extractLsb' 12 4 = Config.cmdWrite) :
    step s = .next (finishEdge (startFrame w s)) := by
  have hf : fetch s = .ok (.dacWrite ((w.extractLsb' 0 12).zeroExtend 16)) := (fetch_of_call hc).trans (if_pos hw)
  rw [step_of_fetch ha hf (exec_dacWrite _ s), word_of_field hw]

/-- A frame starts with its first half period. -/
theorem startFrame_halfPeriod (w : DacWord) (s : State) : HalfPeriod w 0 (finishEdge (startFrame w s)) where
  st := rfl
  noCall := rfl
  csN := rfl
  sclk := rfl
  bitcnt := rfl
  sr := by simp
  mosi := rfl

/-- `v` is the first cycle of a frame of `w` that begins at the edge after `s`. -/
structure FrameBegins (s : State) (w : DacWord) (v : State) : Prop extends HalfPeriod w 0 v where
  cnt : v.cnt = v.params.sclkHalf - 1
  params : v.params = s.params
  ladder : v.ladder = s.ladder
  gate : v.gate = s.gate

/-- The edge that begins a frame leads to its first cycle. -/
theorem BeginsFrame.step (hb : BeginsFrame s w) (ha : AtEdge s) : ∃ v, step s = .next v ∧ FrameBegins s w v := by
  obtain ⟨hc, hst, hm, rfl⟩ | ⟨hc, hw⟩ := hb
  · exact ⟨_, step_match ha hc hst hm,
      { matchBranch_halfPeriod s with cnt := rfl, params := rfl, ladder := rfl, gate := rfl }⟩
  · exact ⟨_, step_placedWord ha hc hw,
      { startFrame_halfPeriod w s with cnt := rfl, params := rfl, ladder := rfl, gate := rfl }⟩

end Sys2Proof.Machine
end

section
/-! The obligation of 44_dac_driver.md on the receiver. -/

namespace Sys2Proof.Machine

/-- Settles O44: the edge that begins the frame opens a window, and the frame's states send the word into it. -/
theorem theReceiverIsGivenTheWord : Obligations.TheReceiverIsGivenTheWord := by
  intro s r w n hl hcs hb hn hr
  subst hn
  obtain ⟨v, hv, hf⟩ := hb.step (hr 0 (Nat.succ_pos _))
  replace hr := hr.step hv
  rw [← hf.params] at hl hr ⊢
  rw [watch_succ hv, Receiver.see_select hcs hf.csN]
  exact hf.watch_frame hl hf.cnt hr { r with bits := [] }

end Sys2Proof.Machine
end

section
/-! SUPPORT. A conversion cycle that ends in an exhaustion (R146, R151). -/

namespace Sys2Proof.Machine

variable {s v : State}

/-- A search without a match shows nothing on the wires, keeps `prev` and ends in RAMP_REST (R146). -/
theorem StepBegins.watch_exhausted (h : StepBegins s 0 v) (hL : 1 ≤ s.params.tLadder)
    (hr : RunsFor (256 * (s.params.tLadder + 1)) v) (ht : Threshold 256 v (256 * (s.params.tLadder + 1))) (r : Receiver) :
    ∃ u, watch (256 * (s.params.tLadder + 1)) v r = some (u, r) ∧ u.st = 0x9#4 ∧ u.prev = s.prev := by
  obtain ⟨w, hw, htest⟩ := h.watch_to_test (c := 255) hL le_rfl (by omega) hr ht r
  have hend := watch_one_quiet (htest.step_exhausted (by omega)) rfl rfl r
  have hn : 256 * (s.params.tLadder + 1) = 255 * (s.params.tLadder + 1) + s.params.tLadder + 1 := by omega
  rw [hn]
  exact ⟨_, watch_trans hw hend, rfl, htest.prev⟩

/-- Chip-select is deasserted while the gate is closed (R38.2). -/
theorem SampleBegins.csN (h : SampleBegins s) : s.csN = true := by
  simpa [h.st] using h.inv.ports.csN_iff

/-- The loop period of R270 for a search that finds no match. -/
def missPeriod (p : Params) : Nat := p.tDwell + (256 * (p.tLadder + 1) + 1)

/-- A conversion cycle under THRESHOLD(256): the receiver is given nothing, `prev` stays, and the next sample begins
(R151, R199, R270). -/
theorem SampleBegins.watch_miss (h : SampleBegins s) (hr : RunsFor (missPeriod s.params) s)
    (ht : Threshold 256 s (missPeriod s.params)) (r : Receiver) :
    ∃ t, watch (missPeriod s.params) s r = some (t, r) ∧ SampleBegins t ∧ t.prev = s.prev := by
  unfold missPeriod at *
  obtain ⟨v, hv, hbegin⟩ := h.watch_dwell (hr.mono (Nat.le_add_right _ _)) r
  have hafter := after_of_watch _ hv
  replace hr := hr.drop hafter
  obtain ⟨u, hu, hst, hprev⟩ := hbegin.watch_exhausted h.inv.legal.2.1 (hr.mono (Nat.le_succ _))
    ((ht.drop hafter).mono (Nat.le_succ _)) r
  have hinv := (h.inv.after hafter).after (after_of_watch _ hu)
  have hrest := step_rampRest (hr.drop (after_of_watch _ hu) 0 Nat.one_pos) hinv.noCall hst
  exact ⟨_, watch_trans hv (watch_trans hu (watch_one_quiet hrest rfl rfl r)),
    { inv := step_inv hinv hrest, st := rfl, cnt := rfl }, hprev⟩

end Sys2Proof.Machine
end

section
/-! The obligation of 44_dac_driver.md on a whole cycle. -/

namespace Sys2Proof.Machine

/-- Settles O55: the cycle with a match, and the cycle with none. -/
theorem oneFramePerMatchNonePerMiss : Obligations.OneFramePerMatchNonePerMiss := by
  intro s T period r hs hst hcnt hT hperiod hr ht
  have hbegin : SampleBegins s := ⟨hs, hst, hcnt⟩
  obtain hlt | rfl : T ≤ 255 ∨ T = 256 := by omega
  · have hp : period = matchPeriod s.params T := by rw [hperiod, if_pos hlt, matchPeriod]; omega
    subst hp
    obtain ⟨t, hw, hend, hprev, -⟩ := hbegin.watch_cycle hlt hr ht r
    exact ⟨t, _, hw, hend.csN, fun _ => ⟨rfl, by rw [← hprev, BitVec.ofNat_toNat, BitVec.setWidth_eq]⟩, by omega⟩
  · have hp : period = missPeriod s.params := hperiod
    subst hp
    obtain ⟨t, hw, hend, hprev⟩ := hbegin.watch_miss hr ht r
    exact ⟨t, r, hw, hend.csN, by omega, fun _ => ⟨rfl, hprev⟩⟩

end Sys2Proof.Machine
end

section
/-! SUPPORT. The wires cycle by cycle over a frame (R195): the bits, the settling delay, and the way back to SAMPLE. -/

namespace Sys2Proof.Machine

variable {s t u v : State} {w : DacWord} {p i j : Nat}

/-! ## Within a delay -/

/-- While a delay lasts only `cnt` and the environment's part of the state change (R26). -/
theorem after_waiting (k : Nat) : ∀ {s : State}, delaying s.st → s.dacCall = none → k ≤ s.cnt → RunsFor k s →
    ∃ u, after k s = some u ∧
      u = { s with cnt := s.cnt - k, sync := u.sync, inputs := u.inputs, drawIndex := u.drawIndex, dacCall := none } := by
  induction k with
  | zero => exact fun {s} _ hc _ _ => ⟨s, rfl, by rw [← hc]; rfl⟩
  | succ k ih =>
    intro s hst hc hk hr
    have hw := step_delaying (hr 0 k.succ_pos) hc hst (by omega)
    obtain ⟨u, hu, he⟩ := ih (s := finishEdge (countDown s)) hst rfl (Nat.le_sub_one_of_lt hk) (hr.step hw)
    refine ⟨u, (after_succ hw k).trans hu, he.trans ?_⟩
    have hcnt : s.cnt - 1 - k = s.cnt - (k + 1) := by omega
    simp [finishEdge, countDown, hcnt]

/-! ## The bits -/

/-- The cycle `i` of a half period. -/
theorem HalfPeriod.after_cycle (h : HalfPeriod w p s) (hc : s.cnt = s.params.sclkHalf - 1) (hi : i < s.params.sclkHalf)
    (hr : RunsFor i s) : ∃ u, after i s = some u ∧ HalfPeriod w p u := by
  obtain ⟨u, hu, he⟩ := after_waiting i h.is_delaying h.noCall (by omega) hr
  exact ⟨u, hu, by rw [he]; exact h.goes_on _ _ _ _⟩

/-- The cycle `j` of a frame is cycle `j % SCLK_HALF` of half period `j / SCLK_HALF`. -/
theorem HalfPeriod.after_bits (h : HalfPeriod w 0 s) (hh : 1 ≤ s.params.sclkHalf) (hc : s.cnt = s.params.sclkHalf - 1)
    (hj : j < 32 * s.params.sclkHalf) (hr : RunsFor j s) :
    ∃ u, after j s = some u ∧ HalfPeriod w (j / s.params.sclkHalf) u := by
  have hp : j / s.params.sclkHalf < 32 := Nat.div_lt_of_lt_mul (by rwa [Nat.mul_comm])
  have hdiv := Nat.div_add_mod' j s.params.sclkHalf
  rw [← hdiv] at hr
  obtain ⟨v, hv, hpv, hcv, hparv⟩ := h.watch_upTo hh hc ⟨[], []⟩ _ (Nat.le_of_lt_succ hp) (hr.mono (Nat.le_add_right _ _))
  have hafter := after_of_watch _ hv
  obtain ⟨u, hu, hpu⟩ := hpv.after_cycle hcv (by rw [hparv]; exact Nat.mod_lt _ hh) (hr.drop hafter)
  refine ⟨u, ?_, hpu⟩
  conv_lhs => rw [← hdiv, after_add, hafter]
  exact hu

/-- The states of the half periods, by the cycles (R81). -/
theorem halfPeriodCode_div {h : Nat} (hh : 1 ≤ h) (j : Nat) :
    halfPeriodCode (j / h) = if j < h then 0x4#4 else if j < 16 * h then 0x5#4 else 0x6#4 := by
  have h0 : j / h = 0 ↔ j < h := by rw [Nat.div_eq_zero_iff]; omega
  have h16 : j / h < 16 ↔ j < 16 * h := Nat.div_lt_iff_lt_mul hh
  simp only [halfPeriodCode, h0, h16]

theorem HalfPeriod.inFrame (h : HalfPeriod w p s) : inFrame s.st := by
  rw [h.st]; unfold halfPeriodCode
  split_ifs <;> simp

/-- The states of a frame's window write neither the ladder nor the gate. -/
theorem Branch.keeps_ladder_gate (h : Branch s u) (hst : inFrame s.st) : u.ladder = s.ladder ∧ u.gate = s.gate := by
  cases h with
  | sampleBegins he => rcases he with ⟨he, -⟩ | he <;> simp [he] at hst
  | sampleEnds he _ | exhausted he _ _ | stepped he _ _ | done he => simp [he] at hst
  | illegal he => rcases hst with hst | hst | hst | hst <;> simp [illegalCode, hst] at he
  | _ => exact ⟨rfl, rfl⟩

/-- Ladder and gate stay as they are while a frame's window is open. -/
theorem after_keeps_ladder_gate (n : Nat) : ∀ {s : State}, s.dacCall = none → RunsFor n s →
    (∀ k < n, ∀ u ∈ after k s, inFrame u.st) → after n s = some t → t.ladder = s.ladder ∧ t.gate = s.gate := by
  induction n with
  | zero =>
    intro s _ _ _ h
    obtain rfl : s = t := by simpa using h
    exact ⟨rfl, rfl⟩
  | succ n ih =>
    intro s hc hr hst h
    obtain ⟨u, hu, hs⟩ := step_branch (hr 0 n.succ_pos) hc
    obtain ⟨hl, hg⟩ := hu.keeps_ladder_gate (hst 0 n.succ_pos s rfl)
    rw [after_succ hs] at h
    obtain ⟨hl', hg'⟩ := ih rfl (hr.step hs)
      (fun k hk x hx => hst (k + 1) (Nat.succ_lt_succ hk) x ((after_succ hs k).trans hx)) h
    exact ⟨hl'.trans hl, hg'.trans hg⟩

theorem HalfPeriod.bits_keep_ladder_gate (h : HalfPeriod w 0 s) (hh : 1 ≤ s.params.sclkHalf)
    (hc : s.cnt = s.params.sclkHalf - 1) (hj : j ≤ 32 * s.params.sclkHalf) (hr : RunsFor j s) (hu : after j s = some u) :
    u.ladder = s.ladder ∧ u.gate = s.gate := by
  refine after_keeps_ladder_gate j h.noCall hr (fun k hk x hx => ?_) hu
  obtain ⟨y, hy, hpy⟩ := h.after_bits hh hc (hk.trans_le hj) (hr.mono hk.le)
  obtain rfl : y = x := Option.some.inj (hy.symm.trans hx)
  exact hpy.inFrame

/-! ## The end of the frame -/

/-- A cycle of a frame after its last bit, in state `c`: SCLK and `mosi` are 0. -/
structure TailCycle (c : StCode) (gate : Bool) (ladder : Ladder) (csN : Bool) (s : State) : Prop where
  st : s.st = c
  noCall : s.dacCall = none
  gate : s.gate = gate
  ladder : s.ladder = ladder
  csN : s.csN = csN
  sclk : s.sclk = false
  mosi : s.mosi = false

/-- The last falling edge of SCLK (R191). -/
theorem HalfPeriod.step_lastFall (h : HalfPeriod w 31 s) (ha : AtEdge s) (h0 : s.cnt = 0) :
    step s = .next (finishEdge (endFrame s)) := by
  have hb : s.bitcnt = 15#4 := BitVec.eq_of_toNat_eq h.bitcnt
  rw [h.step_fall (i := 15) ha h0, if_neg (not_not.2 hb)]

/-- From a frame's first cycle to the first of its settling delay. -/
theorem HalfPeriod.after_lastFall (h : HalfPeriod w 0 s) (hh : 1 ≤ s.params.sclkHalf) (hc : s.cnt = s.params.sclkHalf - 1)
    (hr : RunsFor (32 * s.params.sclkHalf) s) :
    ∃ t, after (32 * s.params.sclkHalf) s = some t ∧ TailCycle 0x7#4 s.gate s.ladder false t ∧
      t.cnt = t.params.tDacSettle - 1 ∧ t.params = s.params := by
  have hn : 32 * s.params.sclkHalf = 31 * s.params.sclkHalf + s.params.sclkHalf := by omega
  have hrun := hr
  rw [hn] at hrun
  obtain ⟨u, hu, hpu, hcu, hparu⟩ := h.watch_upTo hh hc ⟨[], []⟩ 31 le_rfl (hrun.mono (Nat.le_add_right _ _))
  replace hrun := hrun.drop (after_of_watch _ hu)
  rw [← hparu] at hrun
  obtain ⟨v, ha, hpv, h0, hparv, hw⟩ := hpu.watch_wait (by rwa [hparu]) hcu hrun ⟨[], []⟩
  have hlast := hw.trans (watch_one (hpv.step_lastFall ha h0) _)
  rw [hparu] at hlast
  have hend : after (32 * s.params.sclkHalf) s = some (finishEdge (endFrame v)) := by
    rw [hn, after_add, after_of_watch _ hu]
    exact after_of_watch _ hlast
  obtain ⟨hl, hg⟩ := h.bits_keep_ladder_gate hh hc le_rfl hr hend
  exact ⟨_, hend, { st := rfl, noCall := rfl, gate := hg, ladder := hl, csN := hpv.csN, sclk := rfl, mosi := rfl },
    rfl, hparv.trans hparu⟩

variable {gate csN : Bool} {ladder : Ladder}

/-- The wires stay as they are while the settling delay lasts (R194). -/
theorem TailCycle.after_cycle (h : TailCycle 0x7#4 gate ladder csN s) (hi : i ≤ s.cnt) (hr : RunsFor i s) :
    ∃ u, after i s = some u ∧ TailCycle 0x7#4 gate ladder csN u ∧ u.cnt = s.cnt - i := by
  obtain ⟨u, hu, he⟩ := after_waiting i (by simp [h.st, delaying]) h.noCall hi hr
  exact ⟨u, hu, by rw [he]; exact { h with noCall := rfl }, by rw [he]⟩

/-- The settling delay ends with CS_n rising (R194). -/
theorem TailCycle.after_deselect (h : TailCycle 0x7#4 gate ladder csN s) (hr : RunsFor (s.cnt + 1) s) :
    ∃ u, after (s.cnt + 1) s = some u ∧ TailCycle 0x8#4 gate ladder true u := by
  obtain ⟨v, hv, htail, hcnt⟩ := h.after_cycle le_rfl (hr.mono (Nat.le_succ _))
  have hs := step_dacSettle (hr.drop hv 0 Nat.one_pos) htail.noCall htail.st
  rw [if_neg (not_not.2 (hcnt.trans (Nat.sub_self _)))] at hs
  refine ⟨finishEdge { v with csN := true, st := stDacDone }, ?_, { htail with st := rfl, noCall := rfl, csN := rfl }⟩
  rw [after_add, hv]
  exact after_succ hs 0

/-- DAC_DONE puts the ladder to rest (R196). -/
theorem TailCycle.step_done (h : TailCycle 0x8#4 gate ladder csN s) (ha : AtEdge s) :
    ∃ u, step s = .next u ∧ TailCycle 0x9#4 gate 0#8 csN u :=
  ⟨finishEdge (restLadder s), step_dacDone ha h.noCall h.st, { h with st := rfl, noCall := rfl, ladder := rfl }⟩

/-- RAMP_REST closes the gate (R147). -/
theorem TailCycle.step_rest (h : TailCycle 0x9#4 gate ladder csN s) (ha : AtEdge s) :
    ∃ u, step s = .next u ∧ TailCycle 0x1#4 true ladder csN u :=
  ⟨finishEdge (enterSample s), step_rampRest ha h.noCall h.st, { h with st := rfl, noCall := rfl, gate := rfl }⟩

/-- The cycles from the first of a settling delay of `d` to the first of SAMPLE (R194, R196, R147). -/
theorem TailCycle.after_cycles {d : Nat} (h : TailCycle 0x7#4 gate ladder false s) (hd : s.cnt + 1 = d) (hi : i ≤ d + 2)
    (hr : RunsFor (d + 2) s) :
    ∃ u, after i s = some u ∧
      TailCycle (if i < d then 0x7#4 else if i = d then 0x8#4 else if i = d + 1 then 0x9#4 else 0x1#4)
        (if i ≤ d + 1 then gate else true) (if i ≤ d then ladder else 0#8) (decide (d ≤ i)) u := by
  subst hd
  obtain ⟨u, hu, h8⟩ := h.after_deselect (hr.mono (by omega))
  have hr' := hr.drop hu
  obtain ⟨v, hv, h9⟩ := h8.step_done (hr' 0 (by omega))
  obtain ⟨w, hw, h1⟩ := h9.step_rest ((hr'.step hv) 0 (by omega))
  obtain hlt | rfl | rfl | rfl : i ≤ s.cnt ∨ i = s.cnt + 1 ∨ i = s.cnt + 1 + 1 ∨ i = s.cnt + 1 + 2 := by omega
  · obtain ⟨x, hx, h7, -⟩ := h.after_cycle hlt (hr.mono (by omega))
    refine ⟨x, hx, ?_⟩
    simpa (disch := omega) only [if_pos, decide_eq_false] using h7
  · exact ⟨u, hu, by simpa (disch := omega) only [if_pos, if_neg, if_true, decide_eq_true] using h8⟩
  · refine ⟨v, ?_, by simpa (disch := omega) only [if_pos, if_neg, if_true, decide_eq_true] using h9⟩
    rw [after_add, hu]
    exact after_succ hv 0
  · refine ⟨w, ?_, by simpa (disch := omega) only [if_pos, if_neg, decide_eq_true] using h1⟩
    rw [after_add, hu]
    exact (after_succ hv 1).trans (after_succ hw 0)

end Sys2Proof.Machine
end

section
/-! The obligation of 44_dac_driver.md on the wires. -/

namespace Sys2Proof.Machine

/-- Settles O43: the cycles of the bits, then those of DAC_SETTLE, DAC_DONE, RAMP_REST and the first of SAMPLE. -/
theorem frameWireTiming : Obligations.FrameWireTiming := by
  intro s h settle j w hl hb hh hs hr hj
  obtain ⟨v, hv, hf⟩ := hb.step (hr 0 (Nat.succ_pos _))
  replace hr : RunsFor (32 * h + (settle + 2)) v := hr.step hv
  rw [after_succ hv, ← hf.ladder, ← hf.gate]
  rw [← hf.params] at hl hh hs
  subst hh hs
  obtain ⟨-, -, -, hd, h1⟩ := hl
  by_cases hbits : j < 32 * v.params.sclkHalf
  · obtain ⟨u, hu, hp⟩ := hf.after_bits h1 hf.cnt hbits (hr.mono (by omega))
    obtain ⟨hladder, hgate⟩ := hf.bits_keep_ladder_gate h1 hf.cnt hbits.le (hr.mono (by omega)) hu
    have hmosi := hp.mosi_eq (Nat.div_lt_of_lt_mul (by rwa [Nat.mul_comm]))
    have hst := hp.st.trans (halfPeriodCode_div h1 j)
    rw [Nat.div_div_eq_div_mul, Nat.mul_comm _ 2] at hmosi
    refine ⟨u, hu, ?_⟩
    simp (disch := omega) only [hp.csN, hp.sclk, hmosi, hladder, hgate, hst, hbits, if_pos, decide_eq_false,
      true_and, decide_true, Bool.true_and, if_true]
  · obtain ⟨i, rfl⟩ := Nat.exists_eq_add_of_le (not_lt.1 hbits)
    obtain ⟨t, ht, htail, hcnt, hpar⟩ := hf.after_lastFall h1 hf.cnt (hr.mono (Nat.le_add_right _ _))
    obtain ⟨u, hu, hcycle⟩ := htail.after_cycles (i := i) (d := v.params.tDacSettle) (by rw [hcnt, hpar]; omega) (by omega)
      (hr.drop ht)
    refine ⟨u, by rw [after_add, ht]; exact hu, ?_⟩
    simp (disch := omega) only [hcycle.csN, hcycle.sclk, hcycle.mosi, hcycle.ladder, hcycle.gate, hcycle.st, hbits, if_neg,
      Nat.add_le_add_iff_left, Nat.add_lt_add_iff_left, Nat.add_assoc, Nat.add_left_cancel_iff, false_and, decide_false,
      Bool.false_and, if_false, and_self]

end Sys2Proof.Machine
end

section
/-! SUPPORT. The trap state over one instant and over many (R220), and the illegal rows (R222). -/

namespace Sys2Proof.Machine

variable {s : State} {i : Instr}

/-- In TRAP the rule of TRAP changes nothing. -/
theorem raiseTrap_of_trap (h : s.st = 0xF#4) : raiseTrap s = s := by
  rw [raiseTrap, stTrap_eq, ← h]

/-- From TRAP an instant out of reset, edge or not, changes the environment's part of the state alone. -/
theorem step_in_trap (hst : s.st = 0xF#4) (hc : s.dacCall = none) (hr : s.pins.rstN = true) :
    ∃ t, step s = .next t ∧ t = { s with sync := t.sync, inputs := s.inputs.tail, drawIndex := s.drawIndex + 1 } := by
  obtain h0 | ⟨-, hk⟩ | ha := instant_cases s
  · rw [hr] at h0; cases h0
  · exact ⟨_, step_of_noEdge hr hk, rfl⟩
  · refine ⟨finishEdge s, by rw [step_trap ha hc hst, raiseTrap_of_trap hst], ?_⟩
    rw [finishEdge, ← hc]

/-- TRAP is not left while `rst_n` stays 1: by induction on the instants, the state after the first being again in TRAP. -/
theorem after_in_trap (n : Nat) : ∀ {s : State}, s.st = 0xF#4 → s.dacCall = none → (∀ k < n, (s.pinsAt k).rstN = true) →
    ∃ t, after n s = some t ∧ t = { s with sync := t.sync, inputs := s.inputs.drop n, drawIndex := s.drawIndex + n } := by
  induction n with
  | zero => exact fun {s} _ _ _ => ⟨s, rfl, rfl⟩
  | succ n ih =>
    intro s hst hc hr
    obtain ⟨v, hv, he⟩ := step_in_trap hst hc (hr 0 n.succ_pos)
    have hrv : ∀ k < n, (v.pinsAt k).rstN = true := fun k hk => by
      rw [pinsAt_step hv]; exact hr (k + 1) (Nat.succ_lt_succ hk)
    obtain ⟨t, ht, he'⟩ := ih (by rw [he]; exact hst) (by rw [he]; exact hc) hrv
    refine ⟨t, (after_succ hv n).trans ht, he'.trans ?_⟩
    rw [he]
    simp [Nat.add_assoc, Nat.add_comm 1]

/-- Each illegal row has the illegal-state rule. -/
theorem exec_illegalRow {x : BitVec 1} (h : i = .illegalAB x ∨ i = .illegalCD x ∨ i = .illegalE) (s : State) :
    exec i s = .next (illegalState s) := by
  obtain rfl | rfl | rfl := h <;> rfl

/-- The illegal-state rule, register by register (R222). -/
theorem illegalState_eq (s : State) : illegalState s =
    { s with gate := false, csN := true, sclk := false, mosi := false, code := 0#8, ladder := 0#8, st := 0xF#4 } := rfl

end Sys2Proof.Machine
end

section
/-! The obligations of 60_exceptions.md. -/

namespace Sys2Proof.Machine

/-- Settles O47: the rule of TRAP writes `st` alone, and the state after each instant is again in TRAP. -/
theorem trapIsForever : Obligations.TrapIsForever :=
  ⟨fun _ => rfl, fun n _ => after_in_trap n⟩

/-- Settles O48: the illegal rows share one rule, and a step on an illegal code is that rule and the end of the edge. -/
theorem illegalCodesGoIdleAndTrap : Obligations.IllegalCodesGoIdleAndTrap := by
  refine ⟨fun i x s hi => ?_, fun s hlo hhi ha hc => ⟨_, step_illegal ha hc ⟨hlo, hhi⟩, ?_⟩⟩
  · rw [exec_illegalRow hi, illegalState_eq]
  · rw [illegalState_eq, finishEdge, ← hc]

end Sys2Proof.Machine
end

section
/-! SUPPORT. Reset and the instants between edges after it (70_reset_and_hazards.md R250). -/

namespace Sys2Proof.Machine

/-- A reset instant leaves the output ports idle. -/
theorem holdReset_ports (s : State) : (holdReset s).ports = Ports.idle := rfl

/-- While no edge comes and `rst_n` stays 1, only the model's own inputs move on (R20). -/
theorem after_betweenEdges (n : Nat) : ∀ {s : State},
    (∀ k < n, (s.pinsAt k).clkRises = false ∧ (s.pinsAt k).rstN = true) →
    after n s = some { s with inputs := s.inputs.drop n, drawIndex := s.drawIndex + n } := by
  induction n with
  | zero => exact fun {s} _ => rfl
  | succ n ih =>
    intro s hquiet
    obtain ⟨hk, hr⟩ := hquiet 0 n.succ_pos
    have hs := step_of_noEdge hr hk
    rw [after_succ hs, ih fun k hlt => by rw [pinsAt_step hs]; exact hquiet (k + 1) (Nat.succ_lt_succ hlt)]
    simp [betweenEdges, Nat.add_assoc, Nat.add_comm 1]

/-- The block built with `p` holds its reset values, its ports are idle, and the next edge runs INIT. -/
theorem resetWith_runs_init (p : Params) (ins : List Inputs) (d : Nat) (ha : AtEdge (State.resetWith p ins d)) :
    ∃ u, exec .init (State.resetWith p ins d) = .next u ∧ step (State.resetWith p ins d) = .next (finishEdge u) :=
  step_runs_fetched ha (fetch_init rfl rfl)

end Sys2Proof.Machine
end

section
/-! The obligation of 70_reset_and_hazards.md on reset. -/

namespace Sys2Proof.Machine

/-- Settles O10: the instants between edges leave the registers as reset has set them, `st` at INIT among them. -/
theorem firstEdgeAfterResetIsInit : Obligations.FirstEdgeAfterResetIsInit := by
  intro s hs
  have hreset := step_of_reset hs
  refine ⟨⟨_, hreset, resetWith_atResetValues _ _ _, holdReset_ports s⟩, fun k hquiet hk hr => ?_⟩
  have hwait := after_betweenEdges k (s := holdReset s) fun j hj => by
    rw [pinsAt_step hreset]; exact hquiet (j + 1) (Nat.le_add_left 1 j) hj
  have hrun := (after_succ hreset k).trans hwait
  have hpins := pinsAt_after hrun 0
  exact ⟨_, hrun, resetWith_atResetValues _ _ _, rfl,
    resetWith_runs_init _ _ _ ⟨(congrArg Inputs.clkRises hpins).trans hk, (congrArg Inputs.rstN hpins).trans hr⟩⟩

end Sys2Proof.Machine
end

section
/-! SUPPORT. The comparator against a ladder that stands still (70_reset_and_hazards.md R262): how long the ladder has stood
bounds how much of the synchroniser has sampled its present value. -/

namespace Sys2Proof.Machine

variable {s t u : State} {T n : Nat}

/-- For how many edges of a search's step the ladder has stood on the step's code: those of RAMP_SETTLE that are over. -/
def State.stood (s : State) : Nat :=
  if s.st = 0x2#4 then s.params.tLadder - 1 - s.cnt else if s.st = 0x3#4 then s.params.tLadder else 0

/-- The flip-flops that have been loaded since the ladder was written hold the answer to its present value. -/
def Answered (T : Nat) (s : State) : Prop := ∀ b ∈ s.sync.take s.stood, b = decide (T ≤ s.ladder.toNat)

theorem stood_of_settle (h : s.st = 0x2#4) : s.stood = s.params.tLadder - 1 - s.cnt := if_pos h

theorem stood_of_compare (h : s.st = 0x3#4) : s.stood = s.params.tLadder := by simp [State.stood, h]

theorem stood_of_other (h2 : s.st ≠ 0x2#4) (h3 : s.st ≠ 0x3#4) : s.stood = 0 := by simp [State.stood, h2, h3]

/-- A branch begins a count anew, or leaves the ladder and counts its own edge at most. -/
theorem Branch.stood_le (h : Branch s u) : u.stood = 0 ∨ (u.ladder = s.ladder ∧ u.stood ≤ s.stood + 1) := by
  cases h with
  | stay _ => exact .inr ⟨rfl, Nat.le_succ _⟩
  | wait hst _ =>
    by_cases h2 : s.st = 0x2#4
    · refine .inr ⟨rfl, ?_⟩
      rw [stood_of_settle h2, stood_of_settle (s := countDown s) h2, countDown_cnt, countDown_params]
      omega
    · exact .inl (stood_of_other h2 fun h3 : s.st = 0x3#4 => by simp [delaying, h3] at hst)
  | ladderSettled hst h0 =>
    refine .inr ⟨rfl, ?_⟩
    rw [stood_of_settle hst, stood_of_compare rfl, h0]
    show s.params.tLadder ≤ s.params.tLadder - 1 - 0 + 1
    omega
  | rise hst _ _ => exact .inl (by rcases hst with hst | hst <;> simp [State.stood, hst])
  | _ => exact .inl (by simp [State.stood])

/-- An edge loads the answer to the present ladder value and moves the others on. -/
theorem Answered.step (h : Answered T s) (hc : s.dacCall = none) (ha : AtEdge s)
    (hin : s.pins.compIn = decide (T ≤ s.ladder.toNat)) (hs : step s = .next t) : Answered T t := by
  obtain ⟨u, hu, rfl⟩ := branch_of_step ha hc hs
  intro b hb
  rw [step_sync ha hs] at hb
  obtain h0 | ⟨hl, hle⟩ := hu.stood_le
  · rw [show (finishEdge u).stood = 0 from h0] at hb
    exact absurd hb List.not_mem_nil
  · have hmem : b ∈ (s.pins.compIn :: s.sync).take (s.stood + 1) :=
      List.take_subset_take_left _ hle (((List.dropLast_prefix _).take _).subset hb)
    rw [finishEdge_ladder, hl]
    obtain rfl | hold : b = s.pins.compIn ∨ b ∈ s.sync.take s.stood := by simpa using hmem
    · exact hin
    · exact h b hold

/-- At the comparator test the ladder has stood for T_LADDER edges, enough for every flip-flop (R262). -/
theorem Answered.compS_eq (h : Answered T s) (hs : Inv s) (hst : s.st = 0x3#4)
    (hin : s.pins.compIn = decide (T ≤ s.ladder.toNat)) : s.compS = decide (T ≤ s.code.toNat) := by
  obtain ⟨-, -, hN, -⟩ := hs.legal
  have hchain : s.sync.take s.stood = s.sync :=
    List.take_of_length_le (by rw [hs.chain, stood_of_compare hst]; exact hN)
  rw [← hs.ports.ladder_eq]
  obtain he | hmem : s.compS = s.pins.compIn ∨ s.compS ∈ s.sync := List.mem_cons.1 List.getLastD_mem_cons
  · exact he.trans hin
  · exact h _ (by rwa [hchain])

/-- After its first step a run under ENV(T) is one instant shorter. -/
theorem IdealComparator.step (h : IdealComparator T s (n + 1)) (hs : step s = .next t) : IdealComparator T t n :=
  fun k hk u hu => h (k + 1) (Nat.succ_lt_succ hk) u ((after_succ hs k).trans hu)

/-- ENV(T) gives THRESHOLD(T) from any state whose flip-flops hold the answers that they should. -/
theorem Answered.threshold (n : Nat) : ∀ {s : State}, Answered T s → Inv s → RunsFor n s → IdealComparator T s n →
    Threshold T s n := by
  induction n with
  | zero => exact fun _ _ _ _ k hk => absurd hk k.not_lt_zero
  | succ n ih =>
    intro s h hs hr hin k hk u hu hst
    have hnow := hin 0 n.succ_pos s rfl
    cases k with
    | zero =>
      obtain rfl : s = u := by simpa using hu
      exact h.compS_eq hs hst hnow
    | succ k =>
      obtain ⟨t, ht, hu⟩ := after_succ_cases hu
      exact ih (h.step hs.noCall (hr 0 n.succ_pos) hnow ht) (step_inv hs ht) (hr.step ht) (hin.step ht) k
        (Nat.lt_of_succ_lt_succ hk) u hu hst

/-- Outside a search nothing is asked of the flip-flops. -/
theorem answered_of_start (h : s.st = 0x0#4 ∨ s.st = 0x1#4) : Answered T s := by
  have h0 : s.stood = 0 := by rcases h with h | h <;> simp [State.stood, h]
  intro b hb
  rw [h0] at hb
  exact absurd hb List.not_mem_nil

end Sys2Proof.Machine
end

section
/-! The obligation of 70_reset_and_hazards.md on the comparator. -/

namespace Sys2Proof.Machine

/-- Settles O29: by induction on the run, the flip-flops that have been loaded since the ladder was written hold the answer to
its present value, and at a test those are all of them. -/
theorem idealComparatorGivesTheThreshold : Obligations.IdealComparatorGivesTheThreshold :=
  fun _ _ n hs hst hr hin => (answered_of_start hst).threshold n hs hr hin

end Sys2Proof.Machine
end

section
/-! SUPPORT. A frame's window up to a cycle in its middle (R195, R251): the bits that the wires have shown. -/

namespace Sys2Proof.Machine

variable {s t u : State} {w : DacWord} {p i j : Nat}

/-- While a delay lasts the wires show nothing. -/
theorem watch_waiting (k : Nat) (r : Receiver) : ∀ {s : State}, delaying s.st → s.dacCall = none → k ≤ s.cnt → RunsFor k s →
    after k s = some u → watch k s r = some (u, r) := by
  induction k with
  | zero =>
    intro s _ _ _ _ hu
    obtain rfl : s = u := by simpa using hu
    rfl
  | succ k ih =>
    intro s hst hc hk hr hu
    have hw := step_delaying (hr 0 k.succ_pos) hc hst (by omega)
    rw [after_succ hw] at hu
    rw [watch_succ hw, ← ih (s := finishEdge (countDown s)) hst rfl (Nat.le_sub_one_of_lt hk) (hr.step hw) hu]
    exact congrArg (watch k _) (Receiver.see_self r s.ports)

/-- The cycle `i` of a half period has shown no more than its first. -/
theorem HalfPeriod.watch_cycle (hp : HalfPeriod w p s) (hc : s.cnt = s.params.sclkHalf - 1) (hi : i < s.params.sclkHalf)
    (hr : RunsFor i s) (r : Receiver) : ∃ u, watch i s r = some (u, r) ∧ HalfPeriod w p u := by
  obtain ⟨u, hu, hpu⟩ := hp.after_cycle hc hi hr
  exact ⟨u, watch_waiting i r hp.is_delaying hp.noCall (by omega) hr hu, hpu⟩

/-- The cycle `j` of a frame's bits has shown those whose high half has begun. -/
theorem HalfPeriod.watch_bits (hp : HalfPeriod w 0 s) (hh : 1 ≤ s.params.sclkHalf) (hc : s.cnt = s.params.sclkHalf - 1)
    (hj : j < 32 * s.params.sclkHalf) (hr : RunsFor j s) (r : Receiver) :
    ∃ u, watch j s r = some (u, r.upTo w (j / s.params.sclkHalf)) ∧ HalfPeriod w (j / s.params.sclkHalf) u := by
  have hlt : j / s.params.sclkHalf < 32 := Nat.div_lt_of_lt_mul (by rwa [Nat.mul_comm])
  have hdiv := Nat.div_add_mod' j s.params.sclkHalf
  rw [← hdiv] at hr
  obtain ⟨v, hv, hpv, hcv, hparv⟩ := hp.watch_upTo hh hc r _ (Nat.le_of_lt_succ hlt) (hr.mono (Nat.le_add_right _ _))
  obtain ⟨u, hu, hpu⟩ := hpv.watch_cycle hcv (by rw [hparv]; exact Nat.mod_lt _ hh) (hr.drop (after_of_watch _ hv))
    (r.upTo w (j / s.params.sclkHalf))
  refine ⟨u, ?_, hpu⟩
  conv_lhs => rw [← hdiv]
  exact watch_trans hv hu

/-- After the last bit's rising edge of SCLK the whole word has been shown. -/
theorem Receiver.upTo_of_le (r : Receiver) (w : DacWord) (hp : 31 ≤ p) : r.upTo w p = r.upTo w 31 := by
  rw [Receiver.upTo_last, Receiver.upTo, List.take_of_length_le (by rw [frameOf_length]; omega)]

/-- The settling delay shows nothing more: its cycle `i`, from the frame's first cycle. -/
theorem HalfPeriod.watch_tail (hp : HalfPeriod w 0 s) (hh : 1 ≤ s.params.sclkHalf) (hc : s.cnt = s.params.sclkHalf - 1)
    (hi : i < s.params.tDacSettle) (hr : RunsFor (32 * s.params.sclkHalf + i) s) (r : Receiver) :
    ∃ u, watch (32 * s.params.sclkHalf + i) s r = some (u, r.upTo w 31) ∧ u.st = 0x7#4 ∧ u.csN = false := by
  have hn : 32 * s.params.sclkHalf + i = 31 * s.params.sclkHalf + (s.params.sclkHalf + i) := by omega
  rw [hn] at hr ⊢
  obtain ⟨u, hu, hpu, hcu, hparu⟩ := hp.watch_upTo hh hc r 31 le_rfl (hr.mono (Nat.le_add_right _ _))
  replace hr := hr.drop (after_of_watch _ hu)
  rw [← hparu] at hr hh hi hu ⊢
  obtain ⟨v, hv, hstv, hcallv, hcsv, hcv, hparv⟩ := hpu.watch_last hh hcu (hr.mono (Nat.le_add_right _ _)) (r.upTo w 31)
  replace hr := hr.drop (after_of_watch _ hv)
  have hst : delaying v.st := by simp [hstv, delaying]
  have hle : i ≤ v.cnt := by rw [hcv, hparv]; omega
  obtain ⟨x, hx, he⟩ := after_waiting i hst hcallv hle hr
  refine ⟨x, watch_trans hu (watch_trans hv (watch_waiting i _ hst hcallv hle hr hx)), ?_⟩
  rw [he]
  exact ⟨hstv, hcsv⟩

/-- The cycle `j` of a frame's window: it has shown one bit for each rising edge of SCLK so far (R195). -/
theorem HalfPeriod.watch_window (hp : HalfPeriod w 0 s) (hh : 1 ≤ s.params.sclkHalf) (hc : s.cnt = s.params.sclkHalf - 1)
    (hj : j < 32 * s.params.sclkHalf + s.params.tDacSettle) (hr : RunsFor j s) (r : Receiver) :
    ∃ u, watch j s r = some (u, r.upTo w (j / s.params.sclkHalf)) ∧ Machine.inFrame u.st ∧ u.csN = false := by
  by_cases hbits : j < 32 * s.params.sclkHalf
  · obtain ⟨u, hu, hpu⟩ := hp.watch_bits hh hc hbits hr r
    exact ⟨u, hu, hpu.inFrame, hpu.csN⟩
  · obtain ⟨i, rfl⟩ := Nat.exists_eq_add_of_le (not_lt.1 hbits)
    obtain ⟨u, hu, hst, hcs⟩ := hp.watch_tail hh hc (by omega) hr r
    have hlast : 31 ≤ (32 * s.params.sclkHalf + i) / s.params.sclkHalf := by
      rw [Nat.le_div_iff_mul_le hh]; omega
    rw [Receiver.upTo_of_le r w hlast]
    exact ⟨u, hu, by simp [hst], hcs⟩

/-- A reset while CS_n is 0 commits what the window has shown, at once (R251). -/
theorem watch_reset (hr : s.pins.rstN = false) (hcs : s.csN = false) (r : Receiver) :
    watch 1 s r = some (holdReset s, { bits := [], frames := r.frames ++ [r.bits] }) := by
  rw [watch_one (step_of_reset hr), Receiver.see_deselect hcs rfl]

end Sys2Proof.Machine
end

section
/-! The obligation of 70_reset_and_hazards.md on a reset within a frame. -/

namespace Sys2Proof.Machine

/-- Settles O46: the window after edge D + j holds the bits of half periods 0 to j / H, and the reset closes it. -/
theorem resetCutsTheFrame : Obligations.ResetCutsTheFrame := by
  intro s r w h j bits hl hcs hb hh hj hbits hr hreset
  subst hh hbits
  obtain ⟨v, hv, hf⟩ := hb.step (hr 0 j.succ_pos)
  replace hr := hr.step hv
  have hwatch : ∀ n, watch (n + 1) s r = watch n v { r with bits := [] } := fun n => by
    rw [watch_succ hv, Receiver.see_select hcs hf.csN]
  rw [← hf.params] at hl hj ⊢
  obtain ⟨-, -, -, -, hh⟩ := hl
  obtain ⟨u, hu, hst, hcsu⟩ := hf.watch_window hh hf.cnt hj hr { r with bits := [] }
  have hrun := (hwatch j).trans hu
  have hpins := pinsAt_after (after_of_watch _ hrun) 0
  refine ⟨⟨u, after_of_watch _ hrun, hst, hcsu⟩, fun hlt => ?_, ?_⟩
  · have hp : j / v.params.sclkHalf < 31 := Nat.div_lt_of_lt_mul (by rwa [Nat.mul_comm])
    omega
  · have hcut := watch_trans hrun (watch_reset ((congrArg Inputs.rstN hpins).trans hreset) hcsu _)
    have hpar : u.params = v.params :=
      (params_of_after (after_of_watch _ hrun)).trans hf.params.symm
    exact ⟨_, hcut, by rw [← hpar]; exact resetWith_atResetValues _ _ _, rfl⟩

end Sys2Proof.Machine
end

section
/-! SUPPORT. The gate over a conversion cycle (R122, R270). -/

namespace Sys2Proof.Machine

variable {s t v : State} {r q : Receiver} {T c i k n : Nat}

/-- Outside SAMPLE the gate is open (R38.1). -/
theorem Inv.gate_open (hs : Inv s) (hst : s.st ≠ 0x1#4) : s.gate = false := by
  rw [← Bool.not_eq_true, hs.ports.gate_iff]
  exact hst

theorem SampleBegins.gate (h : SampleBegins s) : s.gate = true := h.inv.ports.gate_iff.2 h.st

/-- The gate is closed for the whole dwell (R122). -/
theorem SampleBegins.dwell_gate (h : SampleBegins s) (hr : RunsFor s.params.tDwell s) (hk : k < s.params.tDwell) :
    ∃ u, after k s = some u ∧ u.gate = true := by
  obtain ⟨hcycles, -⟩ := delayStatesLastExactly s s.params.tDwell (.inl h.st) h.inv.noCall h.inv.legal.1 h.cnt hr
  obtain ⟨u, hu, -, -, hports⟩ := hcycles k hk
  exact ⟨u, hu, (congrArg Ports.sampleGate hports).trans h.gate⟩

/-- The gate is open while the codes up to the threshold are tested. -/
theorem StepBegins.search_gate (h : StepBegins s 0 v) (hv : Inv v) (hc : c ≤ 255) (hT : c ≤ T)
    (hr : RunsFor ((c + 1) * (s.params.tLadder + 1)) v) (ht : Threshold T v ((c + 1) * (s.params.tLadder + 1)))
    (hi : i < (c + 1) * (s.params.tLadder + 1)) : ∃ u, after i v = some u ∧ u.gate = false := by
  obtain ⟨u, hu, -, hst⟩ := h.search_states (h.params ▸ hv.legal.2.1) hc hT hr ht hi
  refine ⟨u, hu, (hv.after hu).gate_open ?_⟩
  rw [hst]
  split_ifs <;> decide

/-- The gate is open from the first cycle of a frame to RAMP_REST (R195). -/
theorem TestsCode.frame_gate (h : TestsCode s T T v) (hv : Inv v)
    (hr : RunsFor (32 * v.params.sclkHalf + v.params.tDacSettle + 3) v)
    (hi : i ≤ 32 * v.params.sclkHalf + v.params.tDacSettle + 1) :
    ∃ u, after (i + 1) v = some u ∧ u.gate = false := by
  have hb : BeginsFrame v (word (matchLevel v)) := .inl ⟨h.noCall, h.st, by simp [h.compS], rfl⟩
  obtain ⟨u, hu, -, -, -, -, hgate, -⟩ := frameWireTiming v _ _ i _ hv.legal hb rfl rfl hr (Nat.le_succ_of_le hi)
  rw [if_pos hi] at hgate
  exact ⟨u, hu, hgate.trans (hv.gate_open (by rw [h.st]; decide))⟩

/-- From the search's first cycle the gate is open to the end of a cycle with a match. -/
theorem StepBegins.match_gate (h : StepBegins s 0 v) (hv : Inv v) (hT : T ≤ 255)
    (hn : n = (T + 1) * (s.params.tLadder + 1) + ((32 * s.params.sclkHalf + s.params.tDacSettle) + 2))
    (hr : RunsFor n v) (ht : Threshold T v n) (hi : i < n) : ∃ u, after i v = some u ∧ u.gate = false := by
  subst hn
  have hr' := hr.mono (Nat.le_add_right _ _)
  replace ht := ht.mono (Nat.le_add_right _ _)
  obtain hlt | hge := lt_or_ge i ((T + 1) * (s.params.tLadder + 1))
  · exact h.search_gate hv hT le_rfl hr' ht hlt
  obtain ⟨j, rfl⟩ := Nat.exists_eq_add_of_le hge
  obtain ⟨w, hw, htest⟩ := h.watch_to_test (h.params ▸ hv.legal.2.1) hT le_rfl hr' ht ⟨[], []⟩
  have hafter := after_of_watch _ hw
  have e : ∀ x, (T + 1) * (s.params.tLadder + 1) + x = T * (s.params.tLadder + 1) + s.params.tLadder + (x + 1) := fun x => by
    rw [Nat.succ_mul]; omega
  have hj : j ≤ 32 * s.params.sclkHalf + s.params.tDacSettle + 1 := Nat.le_of_lt_succ (Nat.add_lt_add_iff_left.1 hi)
  rw [e] at hr ⊢
  obtain ⟨u, hu, hgate⟩ := htest.frame_gate (i := j) (hv.after hafter) (by rw [htest.params]; exact hr.drop hafter)
    (by rw [htest.params]; exact hj)
  exact ⟨u, by rw [after_add, hafter]; exact hu, hgate⟩

/-- From the search's first cycle the gate is open to the end of a cycle without a match. -/
theorem StepBegins.miss_gate (h : StepBegins s 0 v) (hv : Inv v) (hn : n = 256 * (s.params.tLadder + 1) + 1)
    (hr : RunsFor n v) (ht : Threshold 256 v n) (hi : i < n) : ∃ u, after i v = some u ∧ u.gate = false := by
  subst hn
  replace hr := hr.mono (Nat.le_succ _)
  replace ht := ht.mono (Nat.le_succ _)
  obtain hlt | rfl := Nat.lt_succ_iff_lt_or_eq.1 hi
  · exact h.search_gate (c := 255) hv le_rfl (by decide) hr ht hlt
  · obtain ⟨u, hu, hst, -⟩ := h.watch_exhausted (h.params ▸ hv.legal.2.1) hr ht ⟨[], []⟩
    have hafter := after_of_watch _ hu
    exact ⟨u, hafter, (hv.after hafter).gate_open (by rw [hst]; decide)⟩

/-- A cycle's gate is closed for the dwell, and open from the search's first cycle on if it is so seen from there. -/
theorem SampleBegins.cycle_gate (h : SampleBegins s) (hr : RunsFor (s.params.tDwell + n) s)
    (hopen : ∀ v, after s.params.tDwell s = some v → StepBegins s 0 v → ∀ i < n, ∃ u, after i v = some u ∧ u.gate = false)
    (hk : k < s.params.tDwell + n) : ∃ u, after k s = some u ∧ u.gate = decide (k < s.params.tDwell) := by
  replace hr := hr.mono (Nat.le_add_right _ _)
  obtain hlt | hge := lt_or_ge k s.params.tDwell
  · simpa [hlt] using h.dwell_gate hr hlt
  · obtain ⟨i, rfl⟩ := Nat.exists_eq_add_of_le hge
    obtain ⟨v, hv, hbegin⟩ := h.watch_dwell hr ⟨[], []⟩
    have hafter := after_of_watch _ hv
    rw [after_add, hafter, decide_eq_false (not_lt.2 hge)]
    exact hopen v hafter hbegin i (by omega)

/-- A run that ends in the first cycle of SAMPLE ends with the gate closed for a whole dwell. -/
theorem SampleBegins.ends (h : SampleBegins t) (hw : watch n s r = some (t, q)) :
    ∃ t, after n s = some t ∧ t.st = 0x1#4 ∧ t.cnt = s.params.tDwell - 1 ∧ t.gate = true := by
  have hafter := after_of_watch _ hw
  exact ⟨t, hafter, h.st, params_of_after hafter ▸ h.cnt, h.gate⟩

end Sys2Proof.Machine
end

section
/-! The obligation of 70_reset_and_hazards.md on the loop period. -/

namespace Sys2Proof.Machine

/-- Settles O54: the cycle with a match, and the cycle with none. -/
theorem loopPeriodIsExact : Obligations.LoopPeriodIsExact := by
  intro s T period hs hst hcnt hT hperiod hr ht
  have hbegin : SampleBegins s := ⟨hs, hst, hcnt⟩
  obtain hlt | rfl : T ≤ 255 ∨ T = 256 := by omega
  · have hp : period = matchPeriod s.params T := by rw [hperiod, if_pos hlt, matchPeriod]; omega
    subst hp
    obtain ⟨t, hw, hnext, -⟩ := hbegin.watch_cycle hlt hr ht ⟨[], []⟩
    exact ⟨fun k hk => hbegin.cycle_gate hr (fun v hv hsearch i hi =>
      hsearch.match_gate (hs.after hv) hlt rfl (hr.drop hv) (ht.drop hv) hi) hk, hnext.ends hw⟩
  · have hp : period = missPeriod s.params := hperiod
    subst hp
    obtain ⟨t, hw, hnext, -⟩ := hbegin.watch_miss hr ht ⟨[], []⟩
    exact ⟨fun k hk => hbegin.cycle_gate hr (fun v hv hsearch i hi =>
      hsearch.miss_gate (hs.after hv) rfl (hr.drop hv) (ht.drop hv) hi) hk, hnext.ends hw⟩

end Sys2Proof.Machine
end
